-- ==== Sys2Proof/Word.lean ====
section
/-! DEFINITION. The widths of SPDG's words (10_state.md R20; 00_scope.md R6 and R8: bit 0 is the least significant). -/

namespace Sys2Proof

/-- A decode word, bits 7 to 0 (30_encoding.md R71). -/
abbrev DecodeWord := BitVec 8

/-- A status-port word address `st_addr[2:0]` (20_memory.md R50). -/
abbrev PortAddr := BitVec 3

/-- The 64-bit word a status-port read delivers (20_memory.md R50, R51). -/
abbrev PortWord := BitVec 64

/-- The pulse counter and its published copy: `CYCLE_W` = 64 bits (00_scope.md R6). -/
abbrev CycleWord := BitVec 64

/-- A GeneratorConfig word: `CFG_W` = 32 bits (00_scope.md R6). -/
abbrev CfgWord := BitVec 32

/-- The phase accumulator: `PHASE_W` = 32 bits (00_scope.md R7). -/
abbrev PhaseWord := BitVec 32

/-- A sine-table index: `INDEX_W` = 11 bits (00_scope.md R7). -/
abbrev SineIndex := BitVec 11

/-- A sine-table entry: a `SAMPLE_W` = 16 bit pattern, two's complement (00_scope.md R7, R9). -/
abbrev SinePattern := BitVec 16

/-- A code of the `fsm` register (30_encoding.md R72). -/
abbrev FsmCode := BitVec 3

end Sys2Proof
end

