-- ==== Sys2Proof/Machine/Inputs.lean ====
section
/-! DEFINITION. What host and reader can do to SPDG: one move is one command of the stimulus notation that acts on the
block (30_encoding.md R83), and the notation's commands and pseudo-commands expand to lists of moves (R84). EXPECT acts on
nothing; it is a predicate of a state (Sys2Proof/Safety.lean). -/

namespace Sys2Proof.Machine

/-- One act of the host or the reader (30_encoding.md R83; 60_exceptions.md R190 b and c). -/
inductive Move where
  /-- One rising edge of `clk` with these levels of `rst`, `tick` and `stop`. -/
  | edge (rst tick stop : Bool)
  /-- Set the three configuration inputs, held until the next such move; no edge. -/
  | cfg (pin carrier sine : CfgWord)
  /-- Sample `st_rdata` with `st_addr` = `addr` in the present cycle; no edge. -/
  | read (addr : PortAddr)
  deriving DecidableEq, Repr, Inhabited

/-- The commands of R83 that act on SPDG and the pseudo-commands of R84. -/
inductive Cmd where
  | reset
  | idle
  | idleS
  | tick
  | tickS
  | cfg (pin carrier sine : CfgWord)
  | read (addr : PortAddr)
  /-- `BOOT`: reset, then the INIT edge. -/
  | boot
  /-- `TICK*n`. -/
  | ticks (n : Nat)
  /-- `IDLE*n`. -/
  | idles (n : Nat)
  /-- `TICK.S*n`. -/
  | tickSs (n : Nat)
  /-- `READALL`: the seven fields, all in the same cycle. -/
  | readAll
  deriving DecidableEq, Repr

/-- The moves a command stands for: the input bits of R83's table, the expansions of R84's. -/
def Cmd.moves : Cmd → List Move
  | .reset => [.edge true false false]
  | .idle => [.edge false false false]
  | .idleS => [.edge false false true]
  | .tick => [.edge false true false]
  | .tickS => [.edge false true true]
  | .cfg pin carrier sine => [.cfg pin carrier sine]
  | .read a => [.read a]
  | .boot => [.edge true false false, .edge false false false]
  | .ticks n => List.replicate n (.edge false true false)
  | .idles n => List.replicate n (.edge false false false)
  | .tickSs n => List.replicate n (.edge false true true)
  | .readAll => [.read 0, .read 1, .read 2, .read 3, .read 4, .read 5, .read 6]

/-- A stimulus program as a list of moves. -/
def programMoves (prog : List Cmd) : List Move := prog.flatMap Cmd.moves

end Sys2Proof.Machine
end

