-- ==== Sys2Proof/Config.lean ====
section
/-! DEFINITION. What the spec leaves to an implementation or to the outside world. Each is a constant with no body, so no
proof can see its value and a theorem holds for every value of it. The parameters of 00_scope.md R6 whose value the spec
fixes (`CYCLE_W` = 64, `CFG_W` = 32) are the widths of Sys2Proof/Word.lean. -/

namespace Sys2Proof

/-- `SINE_ROM` (00_scope.md R6, 10_state.md R35), OPEN: any 16-bit pattern at any of the 2048 indices (93 U2). Log entry 3. -/
opaque Config.sineRom : SineIndex → SinePattern

/-- `PWM_PERIOD_VALUE` (00_scope.md R6, 10_state.md R31), OPEN (93 U3). Log entry 4. -/
opaque Config.pwmPeriodValue : BitVec 32

/-- `TICK_PERIOD` (00_scope.md R6), the real time between two ticks: timing only, no rule and no definition reads it
(93 U4). Log entry 5. -/
opaque Config.tickPeriod : Nat

/-- The free values of the outside world: the n-th move that host and reader make when State lists none
(70_reset_and_hazards.md R205 and R213, 93 U1 and U8). Log entry 2. -/
opaque Config.freeMove : Nat → Machine.Move

end Sys2Proof
end

