-- ==== Sys2Proof/Machine/Fsm.lean ====
section
/-! DEFINITION. The codes of the `fsm` register (30_encoding.md R72); the codes 5, 6 and 7 are illegal. -/

namespace Sys2Proof.Machine

/-- `S_INIT`, the source's INITIALIZING. -/
abbrev sInit : FsmCode := 0#3
/-- `S_ARM`, RUNNING before the first sample. -/
abbrev sArm : FsmCode := 1#3
/-- `S_HIGH`, RUNNING with the output high. -/
abbrev sHigh : FsmCode := 2#3
/-- `S_LOW`, RUNNING with the output low. -/
abbrev sLow : FsmCode := 3#3
/-- `S_DONE`, stopped. -/
abbrev sDone : FsmCode := 4#3

end Sys2Proof.Machine
end

