-- ==== Sys2Proof/Machine/State.lean ====
section
/-! DEFINITION. The state. `Regs` is the spec's state, exactly the registers of 10_state.md R20. Around it stand the
levels of the inputs (R36), which the spec calls inputs and not state, the reader's sample, and the model's own fields
(log entries 1, 2, 6 and 7). SPDG has no byte memory (log entry 13). -/

namespace Sys2Proof.Machine

/-- The registers of 10_state.md R20, all of them and nothing else. -/
structure Regs where
  /-- `phase` (R22). -/
  phase : PhaseWord
  /-- `cycle` (R23). -/
  cycle : CycleWord
  /-- `fsm` (R24). -/
  fsm : FsmCode
  /-- `p`, pulses of the present sample completed (R25). -/
  p : BitVec 2
  /-- `rem`, time units left in the present phase (R26). -/
  rem : BitVec 2
  /-- `on_len` (R27). -/
  onLen : BitVec 2
  /-- `off_len` (R27). -/
  offLen : BitVec 2
  /-- `out_q`, the level of `pwm_out` (R33). -/
  outQ : Bool
  /-- `oe_q`, the level of `pwm_oe` (R33). -/
  oeQ : Bool
  /-- `cfg_pin_q` (R34). -/
  cfgPinQ : CfgWord
  /-- `cfg_carrier_q` (R34). -/
  cfgCarrierQ : CfgWord
  /-- `cfg_sine_q` (R34). -/
  cfgSineQ : CfgWord
  /-- `ST_INDEX` (R28, R29). -/
  stIndex : SineIndex
  /-- `ST_VALUE`, two's complement (R28). -/
  stValue : SinePattern
  /-- `ST_DUTY` (R28, R30). -/
  stDuty : BitVec 12
  /-- `ST_PERIOD` (R31). -/
  stPeriod : BitVec 32
  /-- `ST_HIGHEND` (R32). -/
  stHighEnd : BitVec 32
  /-- `ST_PERIODEND` (R32). -/
  stPeriodEnd : BitVec 32
  /-- `ST_CYCLE` (R28). -/
  stCycle : CycleWord
  deriving DecidableEq, Repr

/-- The levels of the inputs of 10_state.md R36; `clk` is the step itself. -/
structure Ports where
  rst : Bool
  tick : Bool
  stop : Bool
  cfgPin : CfgWord
  cfgCarrierHz : CfgWord
  cfgSineHz : CfgWord
  stAddr : PortAddr
  deriving DecidableEq, Repr

/-- A state of the system: SPDG's registers, the input levels, and what the model keeps of host and reader. -/
structure State where
  /-- The spec's state (10_state.md R20). -/
  regs : Regs
  /-- The input levels of the last edge, configuration and read (R36). -/
  ports : Ports
  /-- The word the reader sampled at its last READ (30_encoding.md R83, `rdata`). -/
  rdata : PortWord
  /-- Whether an edge with `rst` = 1 has happened; false is the `NoReset` condition (60_exceptions.md R181). -/
  hasReset : Bool
  /-- What host and reader do next, first move first. -/
  moves : List Move
  /-- How many free moves have been drawn. -/
  draws : Nat
  deriving DecidableEq, Repr

/-- The register an `InvariantFault` records, with its value (60_exceptions.md R181). -/
inductive InvariantInfo where
  | rem (v : BitVec 2)
  | offLen (v : BitVec 2)
  | p (v : BitVec 2)
  | onLen (v : BitVec 2)
  deriving DecidableEq, Repr

/-- The fault reasons of 60_exceptions.md R181, exactly these. -/
inductive Fault where
  /-- Raised by ILLEGAL_STATE (R182) with the `fsm` code; safe: the spec gives the same fault. -/
  | illegalState (code : FsmCode)
  /-- Raised by HIGH_COUNT, LOW_COUNT, HIGH_END and PULSE_NEXT (R134 to R137); safe: the spec gives the same fault. -/
  | invariantFault (info : InvariantInfo)
  /-- Raised by every edge operation but RESET before the first RESET (R181); safe: the spec gives the same fault. -/
  | noReset
  deriving DecidableEq, Repr

/-- The refusals. None is ever answered: every operation has its meaning. -/
inductive Refusal where
  /-- Kept for an operation without a meaning; no arm of exec raises it. Safe: it would stop the run. -/
  | notModelled (mnemonic : String)
  deriving DecidableEq, Repr

/-- The reset values of 10_state.md R41. -/
def Regs.reset : Regs where
  phase := 0#32
  cycle := 0#64
  fsm := sInit
  p := 0#2
  rem := 0#2
  onLen := 0#2
  offLen := 0#2
  outQ := false
  oeQ := false
  cfgPinQ := 0#32
  cfgCarrierQ := 0#32
  cfgSineQ := 0#32
  stIndex := 0#11
  stValue := 0#16
  stDuty := 0#12
  stPeriod := 0#32
  stHighEnd := 0#32
  stPeriodEnd := 0#32
  stCycle := 0#64

/-- The machine right after reset: the registers of R41, every input low (R83 for the configuration inputs; log entry 6),
nothing read, no move listed. -/
def State.reset : State where
  regs := Regs.reset
  ports := ⟨false, false, false, 0#32, 0#32, 0#32, 0#3⟩
  rdata := 0#64
  hasReset := true
  moves := []
  draws := 0

end Sys2Proof.Machine
end

