-- ==== Sys2Proof/Machine/Operands.lean ====
section
/-! DEFINITION. The operand forms (30_encoding.md R79 to R82): the table index cut from `phase`, the reading of a table
entry, the words of the status port (20_memory.md R58), and the two parameters a datapath reads. -/

namespace Sys2Proof.Machine

/-- `idx = phase[18:8]` (R79). -/
def sineIndexOf (ph : PhaseWord) : SineIndex := ph.extractLsb' 8 11

/-- `signed16(b)` (00_scope.md R9): b - 65536 if b[15] = 1, else b. -/
def signed16 (b : SinePattern) : Int := b.toInt

/-- `ROM(i)` (40_sample_pipeline.md R101). -/
def romRead (i : SineIndex) : SinePattern := Config.sineRom i

/-- `PWM_PERIOD_VALUE` as INIT writes it (70_reset_and_hazards.md R201). -/
def nominalPeriod : BitVec 32 := Config.pwmPeriodValue

/-- The word of address 0, zero-extended (42_status_port.md R161). -/
def wordIndex (r : Regs) : PortWord := r.stIndex.zeroExtend 64
/-- The word of address 1, sign-extended (R162). -/
def wordValue (r : Regs) : PortWord := r.stValue.signExtend 64
/-- The word of address 2, zero-extended (R163). -/
def wordDuty (r : Regs) : PortWord := r.stDuty.zeroExtend 64
/-- The word of address 3, zero-extended (R164). -/
def wordPeriod (r : Regs) : PortWord := r.stPeriod.zeroExtend 64
/-- The word of address 4, zero-extended (R165). -/
def wordHighEnd (r : Regs) : PortWord := r.stHighEnd.zeroExtend 64
/-- The word of address 5, zero-extended (R166). -/
def wordPeriodEnd (r : Regs) : PortWord := r.stPeriodEnd.zeroExtend 64
/-- The word of address 6 (R167). -/
def wordCycle (r : Regs) : PortWord := r.stCycle
/-- The word of the reserved address 7 (R168). -/
def wordReserved (_ : Regs) : PortWord := 0#64

/-- `MemRead(addr, 8)`: the status-port map (20_memory.md R50, R58). -/
def memRead (addr : PortAddr) (r : Regs) : PortWord :=
  if addr = 0#3 then wordIndex r
  else if addr = 1#3 then wordValue r
  else if addr = 2#3 then wordDuty r
  else if addr = 3#3 then wordPeriod r
  else if addr = 4#3 then wordHighEnd r
  else if addr = 5#3 then wordPeriodEnd r
  else if addr = 6#3 then wordCycle r
  else wordReserved r

end Sys2Proof.Machine
end

