-- ==== Sys2Proof/Machine/Ops.lean ====
section
/-! DEFINITION. The shared operations: writing the registers at an edge (10_state.md R21), the reader's sample
(42_status_port.md R160), raising a model fault (60_exceptions.md R181), the output ports (10_state.md R37). SPDG has no
trap entry and no trap return (60_exceptions.md R185), so there is no operation for either. -/

namespace Sys2Proof.Machine

/-- The three outcomes of an operation on SPDG. -/
abbrev Result := Host.Outcome State Fault Refusal

/-- All register writes of an edge take effect together (10_state.md R21). -/
def State.setRegs (s : State) (r : Regs) : State := { s with regs := r }

/-- The reader keeps the word it sampled. -/
def State.setRdata (s : State) (w : PortWord) : State := { s with rdata := w }

/-- Drive the inputs. -/
def State.setPorts (s : State) (p : Ports) : State := { s with ports := p }

/-- `raise <Fault>(info)` (00_scope.md R11): the fault is the run's outcome and no register is written. -/
def raise (f : Fault) : Result := .fault f

/-- An operation at an edge with `rst` = 0: `NoReset` before the first RESET (60_exceptions.md R181), else the
operation's own register writes or its own fault. -/
def atEdge (s : State) (op : Regs → Except Fault Regs) : Result :=
  if s.hasReset then
    match op s.regs with
    | .ok r => .next (s.setRegs r)
    | .error f => raise f
  else raise .noReset

/-- A status-port read: the reader samples `w`, and SPDG's registers stay as they are (20_memory.md R56). -/
def sampleWord (s : State) (w : PortWord) : Result := .next (s.setRdata w)

/-- `pwm_out` (10_state.md R37). -/
def pwmOut (s : State) : Bool := s.regs.outQ
/-- `pwm_oe`. -/
def pwmOe (s : State) : Bool := s.regs.oeQ
/-- `pin_sel`. -/
def pinSel (s : State) : CfgWord := s.regs.cfgPinQ
/-- `done`. -/
def done (s : State) : Bool := s.regs.fsm == sDone
/-- `st_rdata`, a function of the registers and `st_addr`. -/
def stRdata (s : State) : PortWord := memRead s.ports.stAddr s.regs

end Sys2Proof.Machine
end

