-- ==== Sys2Proof/Machine/Exceptions.lean ====
section
/-! DEFINITION. ILLEGAL_STATE (60_exceptions.md R182): `raise IllegalState(fsm)`, no register written. The code recorded
is the register's, as R182's operand says (log entry 15). -/

namespace Sys2Proof.Machine

/-- `raise IllegalState(fsm)` (R182). -/
def illegalFsm (r : Regs) : Except Fault Regs := .error (.illegalState r.fsm)

/-- ILLEGAL_STATE, row of code 5. -/
def execIllegalState5 (s : State) : Result := atEdge s illegalFsm

/-- ILLEGAL_STATE, row of code 6. -/
def execIllegalState6 (s : State) : Result := atEdge s illegalFsm

/-- ILLEGAL_STATE, row of code 7. -/
def execIllegalState7 (s : State) : Result := atEdge s illegalFsm

end Sys2Proof.Machine
end

