-- ==== Sys2Proof/Machine/ResetInit.lean ====
section
/-! DEFINITION. RESET and INIT (70_reset_and_hazards.md R200 and R201). -/

namespace Sys2Proof.Machine

/-- RESET (R200): every register takes its reset value of 10_state.md R41, and the `NoReset` condition is cleared. It has
priority over everything else (30_encoding.md R75), so it needs no earlier reset and no legal state. -/
def execReset (s : State) : Result := .next { s with regs := Regs.reset, hasReset := true }

/-- The register writes of INIT (R201); the configuration inputs are latched here and nowhere else. -/
def initRegs (inputs : Ports) (r : Regs) : Regs :=
  { r with
    oeQ := true
    stPeriod := nominalPeriod
    cfgPinQ := inputs.cfgPin
    cfgCarrierQ := inputs.cfgCarrierHz
    cfgSineQ := inputs.cfgSineHz
    fsm := sArm }

/-- INIT (R201). -/
def execInit (s : State) : Result := atEdge s (fun r => .ok (initRegs s.ports r))

end Sys2Proof.Machine
end

