-- ==== Sys2Proof/Machine/Sample.lean ====
section
/-! DEFINITION. The sample pipeline (40_sample_pipeline.md R100 to R111): stages P1 to P7 on mathematical integers
(00_scope.md R9 and R10), the tuple SAMPLE, and START_SAMPLE. The constants are those of 00_scope.md R7. -/

namespace Sys2Proof.Machine

/-- P3: `nrm = val + 32768`, in [0, 65535] (R104). -/
def normalise (val : Int) : Nat := (val + 32768).toNat

/-- P4: `pct = (nrm * 100) >> 16` (R105). -/
def percentOf (nrm : Nat) : Nat := (nrm * 100) >>> 16

/-- P5: `dval = (pct * 4000) / 100`, of the pre-clamp percentage (R106). -/
def publishedDuty (pct : Nat) : Nat := (pct * 4000) / 100

/-- P6: `clamp(pct, 20, 80)` (R107). -/
def clampPercent (pct : Nat) : Nat := min (max pct 20) 80

/-- P7a: `onT(c) = max((c * 3) / 100, 1)` (R108). -/
def onTime (c : Nat) : Nat := max ((c * 3) / 100) 1

/-- P7b: `offT(c) = max(((100 - c) * 3) / 100, 1)` (R109). -/
def offTime (c : Nat) : Nat := max (((100 - c) * 3) / 100) 1

/-- `pct(b)`: the pre-clamp percentage of a table pattern (R103 to R105). -/
def patternPercent (b : SinePattern) : Nat := percentOf (normalise (signed16 b))

/-- The 8-tuple of SAMPLE (R100). -/
structure Sample where
  idx : SineIndex
  val : Int
  nrm : Nat
  pct : Nat
  dval : Nat
  c : Nat
  on : Nat
  off : Nat
  deriving DecidableEq, Repr

/-- SAMPLE(ph) over a table `rom` (R100). -/
def sampleWith (rom : SineIndex → SinePattern) (ph : PhaseWord) : Sample :=
  let idx := sineIndexOf ph
  let val := signed16 (rom idx)
  let nrm := normalise val
  let pct := percentOf nrm
  let c := clampPercent pct
  { idx := idx, val := val, nrm := nrm, pct := pct, dval := publishedDuty pct, c := c, on := onTime c, off := offTime c }

/-- SAMPLE(ph) of this machine, over `SINE_ROM` (R100, R101). -/
def sampleAt (ph : PhaseWord) : Sample := sampleWith romRead ph

/-- The registers START_SAMPLE writes from a sample (R111); `cyc` is the pulse count to publish. -/
def publish (x : Sample) (cyc : CycleWord) (r : Regs) : Regs :=
  { r with
    stIndex := x.idx
    stValue := BitVec.ofInt 16 x.val
    stDuty := BitVec.ofNat 12 x.dval
    stCycle := cyc
    onLen := BitVec.ofNat 2 x.on
    offLen := BitVec.ofNat 2 x.off
    p := 0#2
    rem := BitVec.ofNat 2 x.on
    outQ := true
    fsm := sHigh }

/-- START_SAMPLE(ph, cyc) (R111): publish the sample of phase `ph` and begin its first pulse. -/
def startSample (ph : PhaseWord) (cyc : CycleWord) (r : Regs) : Regs := publish (sampleAt ph) cyc r

end Sys2Proof.Machine
end

