-- ==== Sys2Proof/Machine/Sequencer.lean ====
section
/-! DEFINITION. The pulse sequencer (41_pwm_sequencer.md R131 to R140): each operation as a function of the registers, run
at its edge by `atEdge`. -/

namespace Sys2Proof.Machine

/-- No register is written (R131, R140). -/
def hold (r : Regs) : Except Fault Regs := .ok r

/-- A time unit ends and more remain (R134, R136): `rem` must be 2. -/
def countDown (r : Regs) : Except Fault Regs :=
  if r.rem = 2#2 then .ok { r with rem := r.rem - 1#2 } else .error (.invariantFault (.rem r.rem))

/-- A time length is 1 or 2 (10_state.md R27, R40 I2). -/
def legalLen (v : BitVec 2) : Bool := v == 1#2 || v == 2#2

/-- The high phase ends (R135). -/
def endHigh (r : Regs) : Except Fault Regs :=
  if legalLen r.offLen then .ok { r with outQ := false, rem := r.offLen, fsm := sLow }
  else .error (.invariantFault (.offLen r.offLen))

/-- A pulse ends and the next one of the same sample begins (R137); the conditions are tested in the rule's order. -/
def nextPulse (r : Regs) : Except Fault Regs :=
  if r.p = 0#2 ∨ r.p = 1#2 then
    if legalLen r.onLen then
      .ok { r with cycle := r.cycle + 1#64, p := r.p + 1#2, outQ := true, rem := r.onLen, fsm := sHigh }
    else .error (.invariantFault (.onLen r.onLen))
  else .error (.invariantFault (.p r.p))

/-- Steps 7 and 8 complete: the pulse is counted and the phase advances by one (R138, R139). -/
def advance (r : Regs) : Regs := { r with cycle := r.cycle + 1#64, phase := r.phase + 1#32 }

/-- The line goes low and the sequencer stops (R133, R139). -/
def stopLow (r : Regs) : Regs := { r with outQ := false, fsm := sDone }

/-- HOLD_ARM (R131). -/
def execHoldArm (s : State) : Result := atEdge s hold

/-- ARM_START (R132): START_SAMPLE(phase, cycle). -/
def execArmStart (s : State) : Result := atEdge s (fun r => .ok (startSample r.phase r.cycle r))

/-- ARM_STOP (R133). -/
def execArmStop (s : State) : Result := atEdge s (fun r => .ok (stopLow r))

/-- HOLD_HIGH (R131). -/
def execHoldHigh (s : State) : Result := atEdge s hold

/-- HIGH_COUNT (R134). -/
def execHighCount (s : State) : Result := atEdge s countDown

/-- HIGH_END (R135). -/
def execHighEnd (s : State) : Result := atEdge s endHigh

/-- HOLD_LOW (R131). -/
def execHoldLow (s : State) : Result := atEdge s hold

/-- LOW_COUNT (R136). -/
def execLowCount (s : State) : Result := atEdge s countDown

/-- PULSE_NEXT (R137). -/
def execPulseNext (s : State) : Result := atEdge s nextPulse

/-- SAMPLE_NEXT (R138): START_SAMPLE of the phase and count it has just advanced to. -/
def execSampleNext (s : State) : Result :=
  atEdge s (fun r => .ok (startSample (r.phase + 1#32) (r.cycle + 1#64) (advance r)))

/-- SAMPLE_STOP (R139): nothing is published. -/
def execSampleStop (s : State) : Result := atEdge s (fun r => .ok (stopLow (advance r)))

/-- DONE_HOLD (R140). -/
def execDoneHold (s : State) : Result := atEdge s hold

end Sys2Proof.Machine
end

