-- ==== Sys2Proof/Machine/StatusPort.lean ====
section
/-! DEFINITION. The status-port reads (42_status_port.md R161 to R168): in any cycle and any state, before the first reset
too (log entry 7), the reader samples the word of the address and no register changes (R160). -/

namespace Sys2Proof.Machine

/-- RD_INDEX (R161). -/
def execRdIndex (s : State) : Result := sampleWord s (wordIndex s.regs)

/-- RD_VALUE (R162). -/
def execRdValue (s : State) : Result := sampleWord s (wordValue s.regs)

/-- RD_DUTY (R163). -/
def execRdDuty (s : State) : Result := sampleWord s (wordDuty s.regs)

/-- RD_PERIOD (R164). -/
def execRdPeriod (s : State) : Result := sampleWord s (wordPeriod s.regs)

/-- RD_HIGHEND (R165). -/
def execRdHighEnd (s : State) : Result := sampleWord s (wordHighEnd s.regs)

/-- RD_PERIODEND (R166). -/
def execRdPeriodEnd (s : State) : Result := sampleWord s (wordPeriodEnd s.regs)

/-- RD_CYCLE (R167). -/
def execRdCycle (s : State) : Result := sampleWord s (wordCycle s.regs)

/-- RD_RSVD (R168). -/
def execRdRsvd (s : State) : Result := sampleWord s (wordReserved s.regs)

end Sys2Proof.Machine
end

