-- ==== Sys2Proof/Syntax.lean ====
section
/-! DEFINITION. The operations of SPDG, one constructor per row of spec/opcode_table.json. SPDG has no instruction
words (00_scope.md R2): an operation is selected by the decode word of an edge (30_encoding.md R73) or by a status-port
address (R77). A constructor carries the bits its row leaves free, in the row's order, under the field letters of R71:
T `tick`, S `stop`, F `fsm`, E `remIsOne`, P `pIsTwo`. -/

namespace Sys2Proof

/-- One constructor per opcode-table row; the three ILLEGAL_STATE rows are the three codes of R76. -/
inductive Instr where
  /-- RESET, `1TSFFFEP` (70_reset_and_hazards.md R200). -/
  | reset (tick stop : Bool) (fsm : FsmCode) (remIsOne pIsTwo : Bool)
  /-- INIT, `0TS000EP` (R201). -/
  | init (tick stop remIsOne pIsTwo : Bool)
  /-- HOLD_ARM, `00S001EP` (41_pwm_sequencer.md R131). -/
  | holdArm (stop remIsOne pIsTwo : Bool)
  /-- ARM_START, `010001EP` (R132). -/
  | armStart (remIsOne pIsTwo : Bool)
  /-- ARM_STOP, `011001EP` (R133). -/
  | armStop (remIsOne pIsTwo : Bool)
  /-- HOLD_HIGH, `00S010EP` (R131). -/
  | holdHigh (stop remIsOne pIsTwo : Bool)
  /-- HIGH_COUNT, `01S0100P` (R134). -/
  | highCount (stop pIsTwo : Bool)
  /-- HIGH_END, `01S0101P` (R135). -/
  | highEnd (stop pIsTwo : Bool)
  /-- HOLD_LOW, `00S011EP` (R131). -/
  | holdLow (stop remIsOne pIsTwo : Bool)
  /-- LOW_COUNT, `01S0110P` (R136). -/
  | lowCount (stop pIsTwo : Bool)
  /-- PULSE_NEXT, `01S01110` (R137). -/
  | pulseNext (stop : Bool)
  /-- SAMPLE_NEXT, `01001111` (R138). -/
  | sampleNext
  /-- SAMPLE_STOP, `01101111` (R139). -/
  | sampleStop
  /-- DONE_HOLD, `0TS100EP` (R140). -/
  | doneHold (tick stop remIsOne pIsTwo : Bool)
  /-- ILLEGAL_STATE, code 5, `0TS101EP` (60_exceptions.md R182). -/
  | illegalState5 (tick stop remIsOne pIsTwo : Bool)
  /-- ILLEGAL_STATE, code 6, `0TS110EP` (R182). -/
  | illegalState6 (tick stop remIsOne pIsTwo : Bool)
  /-- ILLEGAL_STATE, code 7, `0TS111EP` (R182). -/
  | illegalState7 (tick stop remIsOne pIsTwo : Bool)
  /-- RD_INDEX, `st_addr` = 000 (42_status_port.md R161). -/
  | rdIndex
  /-- RD_VALUE, `st_addr` = 001 (R162). -/
  | rdValue
  /-- RD_DUTY, `st_addr` = 010 (R163). -/
  | rdDuty
  /-- RD_PERIOD, `st_addr` = 011 (R164). -/
  | rdPeriod
  /-- RD_HIGHEND, `st_addr` = 100 (R165). -/
  | rdHighEnd
  /-- RD_PERIODEND, `st_addr` = 101 (R166). -/
  | rdPeriodEnd
  /-- RD_CYCLE, `st_addr` = 110 (R167). -/
  | rdCycle
  /-- RD_RSVD, `st_addr` = 111 (R168). -/
  | rdRsvd
  deriving DecidableEq, Repr

/-- The two operation formats and no others (30_encoding.md R70). -/
inductive Format where
  /-- The 8-bit decode word of an edge. -/
  | fsm
  /-- The 3-bit status-port address of a read. -/
  | read
  deriving DecidableEq, Repr

/-- The fixed length of a format in bits (30_encoding.md R70). -/
def Format.width : Format → Nat
  | .fsm => 8
  | .read => 3

/-- What selects an operation: a decode word (R71) or a status-port address (R77). -/
inductive OpWord where
  | edge (dw : DecodeWord)
  | read (addr : PortAddr)
  deriving DecidableEq, Repr

/-- Bits that have not yet been sorted into a format: `value`, of which `nbits` bits are given. -/
structure RawWord where
  nbits : Nat
  value : Nat
  deriving DecidableEq, Repr

end Sys2Proof
end

