-- ==== Sys2Proof/Machine/Dispatch.lean ====
section
/-! DEFINITION. exec: one arm per constructor of Instr, each a direct call of its meaning. The bits a row leaves free are
ignored by its meaning (30_encoding.md R75). -/

namespace Sys2Proof.Machine

def exec (i : Instr) (s : State) : Host.Outcome State Fault Refusal :=
  match i with
  | .reset _ _ _ _ _ => Sys2Proof.Machine.execReset s
  | .init _ _ _ _ => Sys2Proof.Machine.execInit s
  | .holdArm _ _ _ => Sys2Proof.Machine.execHoldArm s
  | .armStart _ _ => Sys2Proof.Machine.execArmStart s
  | .armStop _ _ => Sys2Proof.Machine.execArmStop s
  | .holdHigh _ _ _ => Sys2Proof.Machine.execHoldHigh s
  | .highCount _ _ => Sys2Proof.Machine.execHighCount s
  | .highEnd _ _ => Sys2Proof.Machine.execHighEnd s
  | .holdLow _ _ _ => Sys2Proof.Machine.execHoldLow s
  | .lowCount _ _ => Sys2Proof.Machine.execLowCount s
  | .pulseNext _ => Sys2Proof.Machine.execPulseNext s
  | .sampleNext => Sys2Proof.Machine.execSampleNext s
  | .sampleStop => Sys2Proof.Machine.execSampleStop s
  | .doneHold _ _ _ _ => Sys2Proof.Machine.execDoneHold s
  | .illegalState5 _ _ _ _ => Sys2Proof.Machine.execIllegalState5 s
  | .illegalState6 _ _ _ _ => Sys2Proof.Machine.execIllegalState6 s
  | .illegalState7 _ _ _ _ => Sys2Proof.Machine.execIllegalState7 s
  | .rdIndex => Sys2Proof.Machine.execRdIndex s
  | .rdValue => Sys2Proof.Machine.execRdValue s
  | .rdDuty => Sys2Proof.Machine.execRdDuty s
  | .rdPeriod => Sys2Proof.Machine.execRdPeriod s
  | .rdHighEnd => Sys2Proof.Machine.execRdHighEnd s
  | .rdPeriodEnd => Sys2Proof.Machine.execRdPeriodEnd s
  | .rdCycle => Sys2Proof.Machine.execRdCycle s
  | .rdRsvd => Sys2Proof.Machine.execRdRsvd s

end Sys2Proof.Machine
end

