-- ==== Sys2Proof/WellFormed.lean ====
section
/-! DEFINITION. Well-formedness. Two checks stand on raw bits: the length must be that of a format, and the value must
fit in it (30_encoding.md R70). A term of `Instr` needs none: its fields are single bits and one 3-bit field, every one of
the 256 decode words is assigned (R74) and every one of the 8 addresses is defined (20_memory.md R51). -/

namespace Sys2Proof

/-- The format whose fixed length is `nbits` (30_encoding.md R70: two formats and no others). -/
def Format.ofWidth? (nbits : Nat) : Option Format :=
  if nbits = Format.fsm.width then some .fsm
  else if nbits = Format.read.width then some .read
  else none

/-- Raw bits are well formed when their length is that of a format and their value fits in that length. -/
def RawWord.wellFormed (w : RawWord) : Bool :=
  (Format.ofWidth? w.nbits).isSome && decide (w.value < 2 ^ w.nbits)

/-- The format an operation is selected in. -/
def Instr.format : Instr → Format
  | .rdIndex | .rdValue | .rdDuty | .rdPeriod | .rdHighEnd | .rdPeriodEnd | .rdCycle | .rdRsvd => .read
  | .reset .. | .init .. | .holdArm .. | .armStart .. | .armStop .. | .holdHigh .. | .highCount .. | .highEnd ..
  | .holdLow .. | .lowCount .. | .pulseNext .. | .sampleNext | .sampleStop | .doneHold .. | .illegalState5 ..
  | .illegalState6 .. | .illegalState7 .. => .fsm

/-- Every term of `Instr` is a legal operation: no decode word is unassigned (30_encoding.md R74), no read encoding traps
(R78), and no operation takes an immediate that could be out of range (R82). -/
def Instr.wellFormed (_ : Instr) : Bool := true

end Sys2Proof
end

