-- ==== Sys2Proof/Decode.lean ====
section
/-! DEFINITION. The decoder and the encoder of both formats, and the opcode table as data (30_encoding.md R70 to R78).
The decoder tests the rows of R73 in their order by mask and match; the encoder packs the fields of R71. -/

namespace Sys2Proof

/-- The decode word of R71: `{rst, tick, stop, fsm[2:0], rem = 1, p = 2}`, `rst` in bit 7. -/
def packDecodeWord (rst tick stop : Bool) (fsm : FsmCode) (remIsOne pIsTwo : Bool) : DecodeWord :=
  BitVec.ofBool rst ++ BitVec.ofBool tick ++ BitVec.ofBool stop ++ fsm ++ BitVec.ofBool remIsOne ++ BitVec.ofBool pIsTwo

/-- `DW[7]`, field R. -/
def dwRst (w : DecodeWord) : Bool := w.getLsbD 7
/-- `DW[6]`, field T. -/
def dwTick (w : DecodeWord) : Bool := w.getLsbD 6
/-- `DW[5]`, field S. -/
def dwStop (w : DecodeWord) : Bool := w.getLsbD 5
/-- `DW[4:2]`, field F. -/
def dwFsm (w : DecodeWord) : FsmCode := w.extractLsb' 2 3
/-- `DW[1]`, field E. -/
def dwRemIsOne (w : DecodeWord) : Bool := w.getLsbD 1
/-- `DW[0]`, field P. -/
def dwPIsTwo (w : DecodeWord) : Bool := w.getLsbD 0

/-- A row matches when `DW & mask = match` (30_encoding.md R73). -/
def rowMatches (mask pattern w : DecodeWord) : Bool := w &&& mask == pattern

/-- The FSM opcode map of R73, row by row; R74: the last row is what is left. -/
def decodeEdge (w : DecodeWord) : Instr :=
  if rowMatches 0x80#8 0x80#8 w then .reset (dwTick w) (dwStop w) (dwFsm w) (dwRemIsOne w) (dwPIsTwo w)
  else if rowMatches 0x9C#8 0x00#8 w then .init (dwTick w) (dwStop w) (dwRemIsOne w) (dwPIsTwo w)
  else if rowMatches 0xDC#8 0x04#8 w then .holdArm (dwStop w) (dwRemIsOne w) (dwPIsTwo w)
  else if rowMatches 0xFC#8 0x44#8 w then .armStart (dwRemIsOne w) (dwPIsTwo w)
  else if rowMatches 0xFC#8 0x64#8 w then .armStop (dwRemIsOne w) (dwPIsTwo w)
  else if rowMatches 0xDC#8 0x08#8 w then .holdHigh (dwStop w) (dwRemIsOne w) (dwPIsTwo w)
  else if rowMatches 0xDE#8 0x48#8 w then .highCount (dwStop w) (dwPIsTwo w)
  else if rowMatches 0xDE#8 0x4A#8 w then .highEnd (dwStop w) (dwPIsTwo w)
  else if rowMatches 0xDC#8 0x0C#8 w then .holdLow (dwStop w) (dwRemIsOne w) (dwPIsTwo w)
  else if rowMatches 0xDE#8 0x4C#8 w then .lowCount (dwStop w) (dwPIsTwo w)
  else if rowMatches 0xDF#8 0x4E#8 w then .pulseNext (dwStop w)
  else if rowMatches 0xFF#8 0x4F#8 w then .sampleNext
  else if rowMatches 0xFF#8 0x6F#8 w then .sampleStop
  else if rowMatches 0x9C#8 0x10#8 w then .doneHold (dwTick w) (dwStop w) (dwRemIsOne w) (dwPIsTwo w)
  else if rowMatches 0x9C#8 0x14#8 w then .illegalState5 (dwTick w) (dwStop w) (dwRemIsOne w) (dwPIsTwo w)
  else if rowMatches 0x9C#8 0x18#8 w then .illegalState6 (dwTick w) (dwStop w) (dwRemIsOne w) (dwPIsTwo w)
  else .illegalState7 (dwTick w) (dwStop w) (dwRemIsOne w) (dwPIsTwo w)

/-- The read map of R77; R78: address 7 is reserved and not illegal. -/
def decodeRead (a : PortAddr) : Instr :=
  if a = 0#3 then .rdIndex
  else if a = 1#3 then .rdValue
  else if a = 2#3 then .rdDuty
  else if a = 3#3 then .rdPeriod
  else if a = 4#3 then .rdHighEnd
  else if a = 5#3 then .rdPeriodEnd
  else if a = 6#3 then .rdCycle
  else .rdRsvd

/-- Decoding is total on both formats (30_encoding.md R74, R78). -/
def decode : OpWord → Instr
  | .edge dw => decodeEdge dw
  | .read a => decodeRead a

/-- Why raw bits are no operation word. -/
inductive Reject where
  /-- The length is that of neither format (30_encoding.md R70). -/
  | noSuchFormat (nbits : Nat)
  /-- The value does not fit in the format's length. -/
  | tooWide (nbits value : Nat)
  deriving DecidableEq, Repr

/-- Sort raw bits into a format, rejecting by name what is of neither. -/
def RawWord.sort (w : RawWord) : Except Reject OpWord :=
  match Format.ofWidth? w.nbits with
  | none => .error (.noSuchFormat w.nbits)
  | some .fsm => if w.value < 2 ^ 8 then .ok (.edge (BitVec.ofNat 8 w.value)) else .error (.tooWide w.nbits w.value)
  | some .read => if w.value < 2 ^ 3 then .ok (.read (BitVec.ofNat 3 w.value)) else .error (.tooWide w.nbits w.value)

/-- Decode raw bits, rejecting by name. -/
def decodeRaw (w : RawWord) : Except Reject Instr :=
  match w.sort with
  | .ok op => .ok (decode op)
  | .error e => .error e

/-- What the decoder reads from the opcode-table word `w` of `nbits` bits: 8 bits are a decode word, 3 bits a status-port
address; `none` where it rejects. -/
def decodeTableWord (nbits w : Nat) : Option Instr :=
  match decodeRaw ⟨nbits, w⟩ with
  | .ok i => some i
  | .error _ => none

/-- The operation word of an instruction, packed from R71's fields and R73's fixed bits, or R77's address. -/
def encode : Instr → OpWord
  | .reset t s f e p => .edge (packDecodeWord true t s f e p)
  | .init t s e p => .edge (packDecodeWord false t s 0#3 e p)
  | .holdArm s e p => .edge (packDecodeWord false false s 1#3 e p)
  | .armStart e p => .edge (packDecodeWord false true false 1#3 e p)
  | .armStop e p => .edge (packDecodeWord false true true 1#3 e p)
  | .holdHigh s e p => .edge (packDecodeWord false false s 2#3 e p)
  | .highCount s p => .edge (packDecodeWord false true s 2#3 false p)
  | .highEnd s p => .edge (packDecodeWord false true s 2#3 true p)
  | .holdLow s e p => .edge (packDecodeWord false false s 3#3 e p)
  | .lowCount s p => .edge (packDecodeWord false true s 3#3 false p)
  | .pulseNext s => .edge (packDecodeWord false true s 3#3 true false)
  | .sampleNext => .edge (packDecodeWord false true false 3#3 true true)
  | .sampleStop => .edge (packDecodeWord false true true 3#3 true true)
  | .doneHold t s e p => .edge (packDecodeWord false t s 4#3 e p)
  | .illegalState5 t s e p => .edge (packDecodeWord false t s 5#3 e p)
  | .illegalState6 t s e p => .edge (packDecodeWord false t s 6#3 e p)
  | .illegalState7 t s e p => .edge (packDecodeWord false t s 7#3 e p)
  | .rdIndex => .read 0#3
  | .rdValue => .read 1#3
  | .rdDuty => .read 2#3
  | .rdPeriod => .read 3#3
  | .rdHighEnd => .read 4#3
  | .rdPeriodEnd => .read 5#3
  | .rdCycle => .read 6#3
  | .rdRsvd => .read 7#3

/-- A row of the opcode table: the mnemonic, the mask and the match of R73 or R77 (an address padded with zeros). -/
structure OpcodeRow where
  mnemonic : String
  format : Format
  mask : DecodeWord
  pattern : DecodeWord
  deriving DecidableEq, Repr

/-- The rows of R73 in the table's order. -/
def fsmRows : List OpcodeRow :=
  [⟨"RESET", .fsm, 0x80, 0x80⟩, ⟨"INIT", .fsm, 0x9C, 0x00⟩, ⟨"HOLD_ARM", .fsm, 0xDC, 0x04⟩,
   ⟨"ARM_START", .fsm, 0xFC, 0x44⟩, ⟨"ARM_STOP", .fsm, 0xFC, 0x64⟩, ⟨"HOLD_HIGH", .fsm, 0xDC, 0x08⟩,
   ⟨"HIGH_COUNT", .fsm, 0xDE, 0x48⟩, ⟨"HIGH_END", .fsm, 0xDE, 0x4A⟩, ⟨"HOLD_LOW", .fsm, 0xDC, 0x0C⟩,
   ⟨"LOW_COUNT", .fsm, 0xDE, 0x4C⟩, ⟨"PULSE_NEXT", .fsm, 0xDF, 0x4E⟩, ⟨"SAMPLE_NEXT", .fsm, 0xFF, 0x4F⟩,
   ⟨"SAMPLE_STOP", .fsm, 0xFF, 0x6F⟩, ⟨"DONE_HOLD", .fsm, 0x9C, 0x10⟩, ⟨"ILLEGAL_STATE", .fsm, 0x9C, 0x14⟩,
   ⟨"ILLEGAL_STATE", .fsm, 0x9C, 0x18⟩, ⟨"ILLEGAL_STATE", .fsm, 0x9C, 0x1C⟩]

/-- The rows of R77 in the table's order. -/
def readRows : List OpcodeRow :=
  [⟨"RD_INDEX", .read, 0x7, 0x0⟩, ⟨"RD_VALUE", .read, 0x7, 0x1⟩, ⟨"RD_DUTY", .read, 0x7, 0x2⟩,
   ⟨"RD_PERIOD", .read, 0x7, 0x3⟩, ⟨"RD_HIGHEND", .read, 0x7, 0x4⟩, ⟨"RD_PERIODEND", .read, 0x7, 0x5⟩,
   ⟨"RD_CYCLE", .read, 0x7, 0x6⟩, ⟨"RD_RSVD", .read, 0x7, 0x7⟩]

/-- The row an instruction belongs to. -/
def Instr.row : Instr → OpcodeRow
  | .reset .. => ⟨"RESET", .fsm, 0x80, 0x80⟩
  | .init .. => ⟨"INIT", .fsm, 0x9C, 0x00⟩
  | .holdArm .. => ⟨"HOLD_ARM", .fsm, 0xDC, 0x04⟩
  | .armStart .. => ⟨"ARM_START", .fsm, 0xFC, 0x44⟩
  | .armStop .. => ⟨"ARM_STOP", .fsm, 0xFC, 0x64⟩
  | .holdHigh .. => ⟨"HOLD_HIGH", .fsm, 0xDC, 0x08⟩
  | .highCount .. => ⟨"HIGH_COUNT", .fsm, 0xDE, 0x48⟩
  | .highEnd .. => ⟨"HIGH_END", .fsm, 0xDE, 0x4A⟩
  | .holdLow .. => ⟨"HOLD_LOW", .fsm, 0xDC, 0x0C⟩
  | .lowCount .. => ⟨"LOW_COUNT", .fsm, 0xDE, 0x4C⟩
  | .pulseNext .. => ⟨"PULSE_NEXT", .fsm, 0xDF, 0x4E⟩
  | .sampleNext => ⟨"SAMPLE_NEXT", .fsm, 0xFF, 0x4F⟩
  | .sampleStop => ⟨"SAMPLE_STOP", .fsm, 0xFF, 0x6F⟩
  | .doneHold .. => ⟨"DONE_HOLD", .fsm, 0x9C, 0x10⟩
  | .illegalState5 .. => ⟨"ILLEGAL_STATE", .fsm, 0x9C, 0x14⟩
  | .illegalState6 .. => ⟨"ILLEGAL_STATE", .fsm, 0x9C, 0x18⟩
  | .illegalState7 .. => ⟨"ILLEGAL_STATE", .fsm, 0x9C, 0x1C⟩
  | .rdIndex => ⟨"RD_INDEX", .read, 0x7, 0x0⟩
  | .rdValue => ⟨"RD_VALUE", .read, 0x7, 0x1⟩
  | .rdDuty => ⟨"RD_DUTY", .read, 0x7, 0x2⟩
  | .rdPeriod => ⟨"RD_PERIOD", .read, 0x7, 0x3⟩
  | .rdHighEnd => ⟨"RD_HIGHEND", .read, 0x7, 0x4⟩
  | .rdPeriodEnd => ⟨"RD_PERIODEND", .read, 0x7, 0x5⟩
  | .rdCycle => ⟨"RD_CYCLE", .read, 0x7, 0x6⟩
  | .rdRsvd => ⟨"RD_RSVD", .read, 0x7, 0x7⟩

/-- A row selects an operation word of its own format whose masked bits are the row's match (R73, R77). -/
def OpcodeRow.selects (row : OpcodeRow) : OpWord → Bool
  | .edge dw => row.format == .fsm && rowMatches row.mask row.pattern dw
  | .read a => row.format == .read && rowMatches row.mask row.pattern (a.zeroExtend 8)

end Sys2Proof
end

