-- ==== Sys2Proof/Machine/Flags.lean ====
section
/-! DEFINITION. SPDG has no flags (10_state.md R39). Its only single-bit conditions are `rem = 1` and `p = 2`, which enter
the decode word of an edge (30_encoding.md R71) and are not stored. -/

namespace Sys2Proof.Machine

/-- `rem_is_one`, bit 1 of the decode word. -/
def remIsOne (r : Regs) : Bool := r.rem == 1#2

/-- `p_is_two`, bit 0 of the decode word. -/
def pIsTwo (r : Regs) : Bool := r.p == 2#2

/-- The decode word formed at an edge from the inputs and the registers (30_encoding.md R71). -/
def decodeWordOf (s : State) : DecodeWord :=
  packDecodeWord s.ports.rst s.ports.tick s.ports.stop s.regs.fsm (remIsOne s.regs) (pIsTwo s.regs)

end Sys2Proof.Machine
end

