-- ==== Sys2Proof/Machine/Fetch.lean ====
section
/-! DEFINITION. How the next operation is selected. SPDG fetches no instruction (00_scope.md R2): the next move of host and
reader drives the inputs; an edge then selects the operation of its decode word (30_encoding.md R71, R73), a read that of
its address (R77), and a configuration move selects none. -/

namespace Sys2Proof.Machine

/-- The next move: the first listed, or a free one where none is listed (log entry 2). -/
def nextMove (s : State) : Move × State :=
  match s.moves with
  | [] => (Config.freeMove s.draws, { s with draws := s.draws + 1 })
  | m :: ms => (m, { s with moves := ms })

/-- A move drives its inputs. The configuration levels hold until the next CFG (30_encoding.md R83). That the other levels
hold too is the model's choice, DESIGN CHOICE (log entry 18): `st_addr` keeps the address of the last READ, so `st_rdata`
goes on showing that address's word, and `rst`, `tick` and `stop` keep those of the last edge. -/
def drive (m : Move) (p : Ports) : Ports :=
  match m with
  | .edge rst tick stop => { p with rst := rst, tick := tick, stop := stop }
  | .cfg pin carrier sine => { p with cfgPin := pin, cfgCarrierHz := carrier, cfgSineHz := sine }
  | .read a => { p with stAddr := a }

/-- The operation a driven move selects. -/
def selectOp (m : Move) (s : State) : Option Instr :=
  match m with
  | .edge _ _ _ => some (decode (.edge (decodeWordOf s)))
  | .cfg _ _ _ => none
  | .read a => some (decode (.read a))

/-- Drive a move and select its operation. -/
def selectFrom (m : Move) (s : State) : Option Instr × State :=
  (selectOp m (s.setPorts (drive m s.ports)), s.setPorts (drive m s.ports))

/-- Take the next move, drive it and select its operation. -/
def fetch (s : State) : Option Instr × State := selectFrom (nextMove s).1 (nextMove s).2

/-- Whether a code counts time units, so that `rem`, `p`, `on_len` and `off_len` carry a pulse's position. -/
def countsUnits (f : FsmCode) : Bool := f == sHigh || f == sLow

/-- A length as the position of a pulse needs it: kept if legal, else 2, the longer one. -/
def fitLen (f : FsmCode) (v : BitVec 2) : BitVec 2 := if countsUnits f && !legalLen v then 2#2 else v

/-- `rem` for the bit `rem_is_one`: 1, or else a value that is not 1 (2 in a counting state, the only legal one). -/
def fitRem (f : FsmCode) (isOne : Bool) (v : BitVec 2) : BitVec 2 :=
  if isOne then 1#2 else if countsUnits f then 2#2 else if v = 1#2 then 0#2 else v

/-- `p` for the bit `p_is_two`: 2, or else a value that is not 2 (a legal one in a counting state). -/
def fitP (f : FsmCode) (isTwo : Bool) (v : BitVec 2) : BitVec 2 :=
  if isTwo then 2#2 else if v = 2#2 ∨ (countsUnits f ∧ v = 3#2) then 0#2 else v

/-- The registers in which a decode word is formed: `fsm`, `rem` and `p` as its bits say, and, where units are counted,
lengths that a pulse can have (log entry 12). -/
def placeRegs (dw : DecodeWord) (r : Regs) : Regs :=
  { r with
    fsm := dwFsm dw
    rem := fitRem (dwFsm dw) (dwRemIsOne dw) r.rem
    p := fitP (dwFsm dw) (dwPIsTwo dw) r.p
    onLen := fitLen (dwFsm dw) r.onLen
    offLen := fitLen (dwFsm dw) r.offLen }

/-- Arrange that the next step performs the operation of `op`: an edge with the input bits of its decode word from the
registers its state bits need, or a read of its address. -/
def placeOp (op : OpWord) (s : State) : State :=
  match op with
  | .edge dw => { s with regs := placeRegs dw s.regs, moves := .edge (dwRst dw) (dwTick dw) (dwStop dw) :: s.moves }
  | .read a => { s with moves := .read a :: s.moves }

/-- `placeOp` of raw bits; bits of neither format place nothing. -/
def placeRaw (w : RawWord) (s : State) : State :=
  match w.sort with
  | .ok op => placeOp op s
  | .error _ => s

end Sys2Proof.Machine
end

