-- ==== Sys2Proof/Machine/Step.lean ====
section
/-! DEFINITION. One step: the next move is driven, and the operation it selects, if any, is performed. -/

namespace Sys2Proof.Machine

/-- A step performs the selected operation; a move that selects none has only driven its inputs. -/
def step (s : State) : Host.Outcome State Fault Refusal :=
  match fetch s with
  | (some i, s') => exec i s'
  | (none, s') => .next s'

/-- `s` with the opcode-table word `w` of `nbits` bits placed as the next operation (log entry 12). -/
def State.withFetchWord (s : State) (nbits w : Nat) : State := placeRaw ⟨nbits, w⟩ s

end Sys2Proof.Machine
end

