-- ==== Sys2Proof/Safety.lean ====
section
/-! DEFINITION. The terms claims use: the invariants of 10_state.md R40, final states (70_reset_and_hazards.md R219), the
assertions of the stimulus notation (30_encoding.md R83), and lists of moves. -/

namespace Sys2Proof.Machine

/-- The invariants I1 to I7 of 10_state.md R40. -/
structure Regs.Inv (r : Regs) : Prop where
  /-- I1: `fsm` is a legal code. -/
  i1 : r.fsm = sInit ∨ r.fsm = sArm ∨ r.fsm = sHigh ∨ r.fsm = sLow ∨ r.fsm = sDone
  /-- I2: the lengths and the pulse number while units are counted. -/
  i2 : r.fsm = sHigh ∨ r.fsm = sLow →
    (r.onLen = 1#2 ∨ r.onLen = 2#2) ∧ (r.offLen = 1#2 ∨ r.offLen = 2#2) ∧ (r.p = 0#2 ∨ r.p = 1#2 ∨ r.p = 2#2)
  /-- I2: `rem` in `S_HIGH`. -/
  i2High : r.fsm = sHigh → 1#2 ≤ r.rem ∧ r.rem ≤ r.onLen
  /-- I2: `rem` in `S_LOW`. -/
  i2Low : r.fsm = sLow → 1#2 ≤ r.rem ∧ r.rem ≤ r.offLen
  /-- I3: the line is high exactly in `S_HIGH`. -/
  i3 : r.outQ = true ↔ r.fsm = sHigh
  /-- I4: the output enable. -/
  i4 : r.oeQ = true ↔ r.fsm ≠ sInit
  /-- I4: `ST_PERIOD` from the INIT edge on. -/
  i4Period : r.fsm ≠ sInit → r.stPeriod = nominalPeriod
  /-- I4: `ST_PERIOD` before the INIT edge. -/
  i4Zero : r.fsm = sInit → r.stPeriod = 0#32
  /-- I5: nothing has moved before the first sample. -/
  i5 : r.fsm = sInit ∨ r.fsm = sArm →
    r.phase = 0#32 ∧ r.cycle = 0#64 ∧ r.p = 0#2 ∧ r.rem = 0#2 ∧ r.onLen = 0#2 ∧ r.offLen = 0#2 ∧
    r.stIndex = 0#11 ∧ r.stValue = 0#16 ∧ r.stDuty = 0#12 ∧ r.stHighEnd = 0#32 ∧ r.stPeriodEnd = 0#32 ∧ r.stCycle = 0#64
  /-- I6: the published fields and the lengths are those of the present phase, and `cycle` counts on from `ST_CYCLE`. -/
  i6 : r.fsm = sHigh ∨ r.fsm = sLow →
    r.stIndex = sineIndexOf r.phase ∧ r.stValue = romRead r.stIndex ∧
    r.stDuty.toNat = 40 * patternPercent r.stValue ∧
    r.onLen.toNat = onTime (clampPercent (patternPercent r.stValue)) ∧
    r.offLen.toNat = offTime (clampPercent (patternPercent r.stValue)) ∧
    r.cycle = r.stCycle + r.p.zeroExtend 64
  /-- I7: the fields nothing writes. -/
  i7 : r.stHighEnd = 0#32 ∧ r.stPeriodEnd = 0#32

/-- A state that satisfies I1 to I7 and in which a RESET has happened. -/
def State.Inv (s : State) : Prop := s.hasReset = true ∧ s.regs.Inv

/-- A run is final in `S_DONE`, after ARM_STOP or SAMPLE_STOP (70_reset_and_hazards.md R219); that no fault is recorded is
its being a state at all (log entry 8). A state before the first RESET is not final, whatever its `fsm` (10_state.md R42).
That a state in `S_DONE` after a RESET is there by one of the two stops is DEDUCED (log entry 19). -/
def State.Final (s : State) : Prop := s.hasReset = true ∧ s.regs.fsm = sDone

/-- An edge with `rst` = 1. -/
def Move.isReset : Move → Bool
  | .edge rst _ _ => rst
  | .cfg _ _ _ | .read _ => false

/-- A tick edge: an edge with `rst` = 0 and `tick` = 1 (41_pwm_sequencer.md R142). -/
def Move.isTick : Move → Bool
  | .edge rst tick _ => !rst && tick
  | .cfg _ _ _ | .read _ => false

/-- A move with `stop` = 1. -/
def Move.isStop : Move → Bool
  | .edge _ _ stop => stop
  | .cfg _ _ _ | .read _ => false

/-- How many time units a list of moves without a reset ends (70_reset_and_hazards.md R206). -/
def tickCount (ms : List Move) : Nat := ms.countP Move.isTick

/-- No move of the list is a reset edge. -/
def NoResetIn (ms : List Move) : Prop := ∀ m ∈ ms, m.isReset = false

/-- Perform the listed moves from `s`, and nothing after them. -/
def playMoves (ms : List Move) (s : State) : Result :=
  Sys2Proof.core.run ms.length { s with moves := ms }

/-- What an EXPECT can name: a register (10_state.md R20), an input port (R36), an output port (R37) or the last READ
(30_encoding.md R83). `clk` has no level in a state, since a step is its rising edge (log entry 17). -/
inductive Observable where
  | phase | cycle | fsm | p | rem | onLen | offLen | outQ | oeQ | cfgPinQ | cfgCarrierQ | cfgSineQ
  | stIndex | stValue | stDuty | stPeriod | stHighEnd | stPeriodEnd | stCycle
  | rst | tick | stop | cfgPin | cfgCarrierHz | cfgSineHz | stAddr
  | pwmOut | pwmOe | pinSel | done | stRdata | rdata
  deriving DecidableEq, Repr

/-- The present value of an observable, its bits padded with zeros. -/
def Observable.value (o : Observable) (s : State) : BitVec 64 :=
  match o with
  | .phase => s.regs.phase.zeroExtend 64
  | .cycle => s.regs.cycle
  | .fsm => s.regs.fsm.zeroExtend 64
  | .p => s.regs.p.zeroExtend 64
  | .rem => s.regs.rem.zeroExtend 64
  | .onLen => s.regs.onLen.zeroExtend 64
  | .offLen => s.regs.offLen.zeroExtend 64
  | .outQ => (BitVec.ofBool s.regs.outQ).zeroExtend 64
  | .oeQ => (BitVec.ofBool s.regs.oeQ).zeroExtend 64
  | .cfgPinQ => s.regs.cfgPinQ.zeroExtend 64
  | .cfgCarrierQ => s.regs.cfgCarrierQ.zeroExtend 64
  | .cfgSineQ => s.regs.cfgSineQ.zeroExtend 64
  | .stIndex => s.regs.stIndex.zeroExtend 64
  | .stValue => s.regs.stValue.zeroExtend 64
  | .stDuty => s.regs.stDuty.zeroExtend 64
  | .stPeriod => s.regs.stPeriod.zeroExtend 64
  | .stHighEnd => s.regs.stHighEnd.zeroExtend 64
  | .stPeriodEnd => s.regs.stPeriodEnd.zeroExtend 64
  | .stCycle => s.regs.stCycle
  | .rst => (BitVec.ofBool s.ports.rst).zeroExtend 64
  | .tick => (BitVec.ofBool s.ports.tick).zeroExtend 64
  | .stop => (BitVec.ofBool s.ports.stop).zeroExtend 64
  | .cfgPin => s.ports.cfgPin.zeroExtend 64
  | .cfgCarrierHz => s.ports.cfgCarrierHz.zeroExtend 64
  | .cfgSineHz => s.ports.cfgSineHz.zeroExtend 64
  | .stAddr => s.ports.stAddr.zeroExtend 64
  | .pwmOut => (BitVec.ofBool (Sys2Proof.Machine.pwmOut s)).zeroExtend 64
  | .pwmOe => (BitVec.ofBool (Sys2Proof.Machine.pwmOe s)).zeroExtend 64
  | .pinSel => (Sys2Proof.Machine.pinSel s).zeroExtend 64
  | .done => (BitVec.ofBool (Sys2Proof.Machine.done s)).zeroExtend 64
  | .stRdata => Sys2Proof.Machine.stRdata s
  | .rdata => s.rdata

/-- `EXPECT <name> = <v>` (30_encoding.md R83), an assertion about a state. -/
def State.Expects (s : State) (o : Observable) (v : BitVec 64) : Prop := o.value s = v

end Sys2Proof.Machine
end

