-- ==== Sys2Proof/Certificates/Slice0/Obligations.lean ====
section
/-! DEFINITION. The statements for the provers. Each docstring names the rule of spec/ a statement formalises, and says
where a clause rests on a choice of the model instead (a log entry). -/

namespace Sys2Proof.Claims

open Sys2Proof.Machine

/-- The instruction is RESET. -/
def IsReset (i : Instr) : Prop := ∃ t st f e p, i = .reset t st f e p

/-- The instruction is one of the three ILLEGAL_STATE rows. -/
def IsIllegal (i : Instr) : Prop :=
  ∃ t st e p, i = .illegalState5 t st e p ∨ i = .illegalState6 t st e p ∨ i = .illegalState7 t st e p

/-- The instruction is one of the operations of 41_pwm_sequencer.md (R131 to R140). -/
def IsSequencer (i : Instr) : Prop := i.format = .fsm ∧ ¬IsReset i ∧ ¬IsIllegal i ∧ ∀ t st e p, i ≠ .init t st e p

/-- The decode words of a row, by its mask and match, are exactly those that select `P` (30_encoding.md R73). -/
def Row (mask pattern : DecodeWord) (P : Instr → Prop) : Prop :=
  ∀ w : DecodeWord, w &&& mask = pattern ↔ P (decodeEdge w)

/-- `pct` of a table pattern, in one formula (40_sample_pipeline.md R104, R105). -/
def pct (b : SinePattern) : Nat := ((b.toInt + 32768).toNat * 100) / 65536

/-- The clamped percentage (R107). -/
def clamped (b : SinePattern) : Nat := if pct b < 20 then 20 else if 80 < pct b then 80 else pct b

/-- The registers after START_SAMPLE(ph, cyc) (R111), every one in terms of the table pattern of `ph[18:8]`. -/
def published (ph : PhaseWord) (cyc : CycleWord) (r : Regs) : Regs :=
  let b := romRead (ph.extractLsb' 8 11)
  { r with
    stIndex := ph.extractLsb' 8 11
    stValue := b
    stDuty := BitVec.ofNat 12 (40 * pct b)
    stCycle := cyc
    onLen := if clamped b ≤ 66 then 1#2 else 2#2
    offLen := if clamped b ≤ 33 then 2#2 else 1#2
    p := 0#2
    rem := if clamped b ≤ 66 then 1#2 else 2#2
    outQ := true
    fsm := 2#3 }

/-- What an edge with the present input levels does: the operation its decode word selects. -/
def edgeResult (s : State) : Result := exec (decodeEdge (decodeWordOf s)) s

/-- The registers without the latched configuration. -/
def sansConfig (r : Regs) : Regs := { r with cfgPinQ := 0#32, cfgCarrierQ := 0#32, cfgSineQ := 0#32 }

/-- The registers without those that no operation at an edge reads (41_pwm_sequencer.md R148). -/
def sansUnread (r : Regs) : Regs := { sansConfig r with stPeriod := 0#32 }

/-- Two moves that are the same but for the levels of the configuration inputs. -/
def SameButConfig : Move → Move → Prop
  | .cfg _ _ _, .cfg _ _ _ => True
  | m, m' => m = m'

/-- The state is in sample number `n` (41_pwm_sequencer.md R144, R145), its pulses being driven. -/
def InSample (n : Nat) (r : Regs) : Prop :=
  (r.fsm = sHigh ∨ r.fsm = sLow) ∧ r.phase = BitVec.ofNat 32 n ∧ r.stIndex = BitVec.ofNat 11 (n / 256) ∧
  r.stCycle = BitVec.ofNat 64 (3 * n)

end Sys2Proof.Claims

open Sys2Proof Sys2Proof.Machine Sys2Proof.Claims

/-! ## Encoding -/

/-- R71: the eight bits of the decode word formed at an edge. -/
def Obligations.DecodeWordHoldsInputsAndState : Prop :=
  ∀ s : State,
    (decodeWordOf s).getLsbD 7 = s.ports.rst ∧ (decodeWordOf s).getLsbD 6 = s.ports.tick ∧
    (decodeWordOf s).getLsbD 5 = s.ports.stop ∧ (decodeWordOf s).extractLsb' 2 3 = s.regs.fsm ∧
    ((decodeWordOf s).getLsbD 1 = true ↔ s.regs.rem = 1#2) ∧ ((decodeWordOf s).getLsbD 0 = true ↔ s.regs.p = 2#2)

/-- R73 and R74: of the seventeen rows exactly one matches a decode word, it is the row of the operation that the decoder
answers, and the rows take 128, 16, 8, ... of the 256 words. -/
def Obligations.EachDecodeWordMatchesOneRow : Prop :=
  (∀ w : DecodeWord, fsmRows.filter (fun row => row.selects (.edge w)) = [(decodeEdge w).row]) ∧
  fsmRows.map (fun row => ((List.range 256).map (BitVec.ofNat 8)).countP (fun w => row.selects (.edge w))) =
    [128, 16, 8, 4, 4, 8, 4, 4, 8, 4, 2, 1, 1, 16, 16, 16, 16]

/-- R75: the priority of `rst`, INIT, `tick` and `stop`, and the bits each state ignores. -/
def Obligations.InputPriority : Prop :=
  (∀ t st f e p, (decodeEdge (packDecodeWord true t st f e p)).row.mnemonic = "RESET") ∧
  (∀ t st e p, (decodeEdge (packDecodeWord false t st sInit e p)).row.mnemonic = "INIT") ∧
  (∀ t st e p, (decodeEdge (packDecodeWord false t st sDone e p)).row.mnemonic = "DONE_HOLD") ∧
  (∀ st e p,
    (decodeEdge (packDecodeWord false false st sArm e p)).row.mnemonic = "HOLD_ARM" ∧
    (decodeEdge (packDecodeWord false false st sHigh e p)).row.mnemonic = "HOLD_HIGH" ∧
    (decodeEdge (packDecodeWord false false st sLow e p)).row.mnemonic = "HOLD_LOW") ∧
  (∀ e p,
    (decodeEdge (packDecodeWord false true false sArm e p)).row.mnemonic = "ARM_START" ∧
    (decodeEdge (packDecodeWord false true true sArm e p)).row.mnemonic = "ARM_STOP") ∧
  (decodeEdge (packDecodeWord false true false sLow true true)).row.mnemonic = "SAMPLE_NEXT" ∧
  (decodeEdge (packDecodeWord false true true sLow true true)).row.mnemonic = "SAMPLE_STOP" ∧
  (∀ st p,
    (decodeEdge (packDecodeWord false true st sHigh true p)).row.mnemonic = "HIGH_END" ∧
    (decodeEdge (packDecodeWord false true st sHigh false p)).row.mnemonic = "HIGH_COUNT") ∧
  (∀ st p, (decodeEdge (packDecodeWord false true st sLow false p)).row.mnemonic = "LOW_COUNT") ∧
  (∀ st, (decodeEdge (packDecodeWord false true st sLow true false)).row.mnemonic = "PULSE_NEXT")

/-- R77 and R78: the read of each address; address 7 is not illegal, reads 0 and has no effect, and no read traps. -/
def Obligations.ReadAddressSelectsItsRead : Prop :=
  decodeRead 0#3 = .rdIndex ∧ decodeRead 1#3 = .rdValue ∧ decodeRead 2#3 = .rdDuty ∧ decodeRead 3#3 = .rdPeriod ∧
  decodeRead 4#3 = .rdHighEnd ∧ decodeRead 5#3 = .rdPeriodEnd ∧ decodeRead 6#3 = .rdCycle ∧ decodeRead 7#3 = .rdRsvd ∧
  (∀ s : State, exec (decodeRead 7#3) s = .next { s with rdata := 0#64 }) ∧
  ∀ (a : PortAddr) (s : State), ∃ t, exec (decodeRead a) s = .next t

/-- Derived from R71, R73 and R77: decoding the encoding of any well-formed instruction gives it back, every free bit
included, so no two instructions share a word. -/
def Obligations.DecodeOfEncode : Prop :=
  (∀ i : Instr, i.wellFormed = true → decode (encode i) = i) ∧
  ∀ i j : Instr, i.wellFormed = true → j.wellFormed = true → encode i = encode j → i = j

/-- Derived from R74 and R51: every operation word of either format is the encoding of the instruction it decodes to, which
is well formed and of the word's own format. -/
def Obligations.EncodeOfDecode : Prop :=
  ∀ op : OpWord, encode (decode op) = op ∧ (decode op).wellFormed = true ∧
    ((decode op).format = .read ↔ ∃ a, op = .read a)

/-- Words written out from the vectors of 95_test_vectors.md section 2.3 and the read map of R77, through the decoder of raw
bits; bits of neither format are rejected by name (R70). -/
def Obligations.WordsOfTheVectors : Prop :=
  decodeRaw ⟨8, 0x93⟩ = .ok (.reset false false 4#3 true true) ∧ decodeRaw ⟨8, 0x60⟩ = .ok (.init true true false false) ∧
  decodeRaw ⟨8, 0x44⟩ = .ok (.armStart false false) ∧ decodeRaw ⟨8, 0x68⟩ = .ok (.highCount true false) ∧
  decodeRaw ⟨8, 0x4B⟩ = .ok (.highEnd false true) ∧ decodeRaw ⟨8, 0x6E⟩ = .ok (.pulseNext true) ∧
  decodeRaw ⟨8, 0x5F⟩ = .ok (.illegalState7 true false true true) ∧ decodeRaw ⟨3, 6⟩ = .ok .rdCycle ∧
  decodeRaw ⟨8, 0x100⟩ = .error (.tooWide 8 0x100) ∧ decodeRaw ⟨5, 0⟩ = .error (.noSuchFormat 5)

/-! ## The step -/

/-- Derived from R21, R71, R77, R83 and log entries 1, 2 and 18: a step takes the next move and drives its levels; an edge runs
the operation of the decode word then formed, a read that of its address, a CFG runs none; where no move is listed, the step
is that of the drawn one. Nothing is added around exec. As equalities of whole states the clauses also say that the levels a
move does not drive stay: for the configuration inputs R83 says so; for `st_addr` through an edge or a CFG, and for `rst`,
`tick` and `stop` through a READ or a CFG, it is the model's choice, DESIGN CHOICE (log entry 18). -/
def Obligations.StepRunsTheSelectedOperation : Prop :=
  (∀ (s : State) (rst tick stop : Bool) (ms : List Move), s.moves = .edge rst tick stop :: ms →
    step s =
      let s' := { s with moves := ms, ports := { s.ports with rst := rst, tick := tick, stop := stop } }
      exec (decode (.edge (decodeWordOf s'))) s') ∧
  (∀ (s : State) (a : PortAddr) (ms : List Move), s.moves = .read a :: ms →
    step s = exec (decode (.read a)) { s with moves := ms, ports := { s.ports with stAddr := a } }) ∧
  (∀ (s : State) (pin carrier sine : CfgWord) (ms : List Move), s.moves = .cfg pin carrier sine :: ms →
    step s = .next { s with
      moves := ms, ports := { s.ports with cfgPin := pin, cfgCarrierHz := carrier, cfgSineHz := sine } }) ∧
  (∀ s : State, s.moves = [] →
    step s = step { s with moves := [Config.freeMove s.draws], draws := s.draws + 1 })

/-- The model's choice (log entry 12): a word placed as the next operation is the one the next step runs, in a state whose
registers other than `fsm`, `rem`, `p`, `on_len` and `off_len` are those of the state it was placed in. -/
def Obligations.PlacedWordIsRun : Prop :=
  ∀ (s : State) (nbits w : Nat) (i : Instr), decodeTableWord nbits w = some i →
    ∃ s', step (s.withFetchWord nbits w) = exec i s' ∧ s'.moves = s.moves ∧ s'.hasReset = s.hasReset ∧
      s'.rdata = s.rdata ∧ s'.draws = s.draws ∧
      { s'.regs with fsm := s.regs.fsm, rem := s.regs.rem, p := s.regs.p, onLen := s.regs.onLen, offLen := s.regs.offLen }
        = s.regs

/-! ## The operations -/

/-- R200 and R41: RESET from any state, before the first reset too, writes every register of R20; then INIT is next. -/
def Obligations.ResetWritesEveryRegister : Prop :=
  Row 0x80#8 0x80#8 IsReset ∧
  (∀ (t st : Bool) (f : FsmCode) (e p : Bool) (s : State),
    exec (.reset t st f e p) s = .next { s with
      hasReset := true
      regs := {
        phase := 0#32, cycle := 0#64, fsm := 0#3, p := 0#2, rem := 0#2, onLen := 0#2, offLen := 0#2,
        outQ := false, oeQ := false, cfgPinQ := 0#32, cfgCarrierQ := 0#32, cfgSineQ := 0#32,
        stIndex := 0#11, stValue := 0#16, stDuty := 0#12, stPeriod := 0#32, stHighEnd := 0#32, stPeriodEnd := 0#32,
        stCycle := 0#64 } }) ∧
  (∀ (t st : Bool) (f : FsmCode) (e p : Bool) (s u : State), exec (.reset t st f e p) s = .next u →
    ∀ q : Ports, q.rst = false → ∃ t' st' e' p', decodeEdge (decodeWordOf (u.setPorts q)) = .init t' st' e' p')

/-- R201: INIT enables the output, sets the nominal period, latches the three configuration inputs and goes to `S_ARM`,
whatever `tick` and `stop`; no operation but RESET leads back to `S_INIT`. From the invariants the line is driven low after
INIT, and in every state before the first sample. -/
def Obligations.InitEnablesAndLatches : Prop :=
  Row 0x9C#8 0x00#8 (fun i => ∃ t st e p, i = .init t st e p) ∧
  (∀ (t st e p : Bool) (s : State), s.hasReset = true →
    exec (.init t st e p) s = .next { s with
      regs := { s.regs with
        oeQ := true, stPeriod := nominalPeriod, cfgPinQ := s.ports.cfgPin, cfgCarrierQ := s.ports.cfgCarrierHz,
        cfgSineQ := s.ports.cfgSineHz, fsm := 1#3 } }) ∧
  (∀ (i : Instr) (s t : State), exec i s = .next t → s.regs.fsm ≠ sInit → t.regs.fsm = sInit → IsReset i) ∧
  (∀ (t st e p : Bool) (s : State), s.Inv → s.regs.fsm = sInit →
    ∃ u, exec (.init t st e p) s = .next u ∧ pwmOut u = false ∧ pwmOe u = true) ∧
  (∀ s : State, s.Inv → s.regs.fsm = sArm → pwmOut s = false ∧ pwmOe s = true)

/-- R131: HOLD_ARM, HOLD_HIGH and HOLD_LOW write no register, whatever `stop`. -/
def Obligations.HoldsWriteNothing : Prop :=
  Row 0xDC#8 0x04#8 (fun i => ∃ st e p, i = .holdArm st e p) ∧
  Row 0xDC#8 0x08#8 (fun i => ∃ st e p, i = .holdHigh st e p) ∧
  Row 0xDC#8 0x0C#8 (fun i => ∃ st e p, i = .holdLow st e p) ∧
  (∀ (st e p : Bool) (s : State), s.hasReset = true →
    exec (.holdArm st e p) s = .next s ∧ exec (.holdHigh st e p) s = .next s ∧ exec (.holdLow st e p) s = .next s)

/-- R111: START_SAMPLE publishes the index, the pattern, the pre-clamp duty and the pulse count it is given, and begins the
first pulse with the lengths of the clamped percentage; nothing else is written. -/
def Obligations.StartSamplePublishes : Prop :=
  ∀ (ph : PhaseWord) (cyc : CycleWord) (r : Regs), startSample ph cyc r = published ph cyc r

/-- R132: ARM_START publishes the sample of the present phase and count; from the invariants this is sample 0: phase 0,
table entry 0, and `ST_CYCLE` 0. -/
def Obligations.ArmStartPublishesFirstSample : Prop :=
  Row 0xFC#8 0x44#8 (fun i => ∃ e p, i = .armStart e p) ∧
  (∀ (e p : Bool) (s : State), s.hasReset = true →
    exec (.armStart e p) s = .next { s with regs := published s.regs.phase s.regs.cycle s.regs }) ∧
  (∀ (e p : Bool) (s : State), s.Inv → s.regs.fsm = sArm →
    ∃ t, exec (.armStart e p) s = .next t ∧ t.regs.phase = 0#32 ∧ t.regs.stIndex = 0#11 ∧ t.regs.stCycle = 0#64)

/-- R133: ARM_STOP lowers the line and stops; nothing is published. -/
def Obligations.ArmStopStops : Prop :=
  Row 0xFC#8 0x64#8 (fun i => ∃ e p, i = .armStop e p) ∧
  (∀ (e p : Bool) (s : State), s.hasReset = true →
    exec (.armStop e p) s = .next { s with regs := { s.regs with outQ := false, fsm := 4#3 } }) ∧
  (∀ s : State, s.Inv → s.regs.fsm = sArm →
    s.regs.outQ = false ∧ s.regs.phase = 0#32 ∧ s.regs.cycle = 0#64)

/-- R134: HIGH_COUNT takes one unit off `rem` = 2 and faults on `rem` 0 or 3; from the invariants a high phase has more than
one unit left only with `rem` = `on_len` = 2, for a clamped percentage of 67 to 80. -/
def Obligations.HighCountTakesOneUnit : Prop :=
  Row 0xDE#8 0x48#8 (fun i => ∃ st p, i = .highCount st p) ∧
  (∀ (st p : Bool) (s : State), s.hasReset = true →
    (s.regs.rem = 2#2 → exec (.highCount st p) s = .next { s with regs := { s.regs with rem := 1#2 } }) ∧
    (s.regs.rem = 0#2 ∨ s.regs.rem = 3#2 → exec (.highCount st p) s = .fault (.invariantFault (.rem s.regs.rem)))) ∧
  (∀ s : State, s.Inv → s.regs.fsm = sHigh →
    s.regs.rem = 1#2 ∨
    (s.regs.rem = 2#2 ∧ s.regs.onLen = 2#2 ∧ 67 ≤ clamped s.regs.stValue ∧ clamped s.regs.stValue ≤ 80))

/-- R135: HIGH_END lowers the line, loads `rem` from `off_len` and goes to `S_LOW`, with `p` and `cycle` unchanged; it faults
on `off_len` 0 or 3. -/
def Obligations.HighEndLowersTheLine : Prop :=
  Row 0xDE#8 0x4A#8 (fun i => ∃ st p, i = .highEnd st p) ∧
  (∀ (st p : Bool) (s : State), s.hasReset = true →
    (s.regs.offLen = 1#2 ∨ s.regs.offLen = 2#2 →
      exec (.highEnd st p) s =
        .next { s with regs := { s.regs with outQ := false, rem := s.regs.offLen, fsm := 3#3 } }) ∧
    (s.regs.offLen = 0#2 ∨ s.regs.offLen = 3#2 →
      exec (.highEnd st p) s = .fault (.invariantFault (.offLen s.regs.offLen))))

/-- R136: LOW_COUNT takes one unit off `rem` = 2 and faults on `rem` 0 or 3; from the invariants a low phase has more than
one unit left only with `rem` = `off_len` = 2, for a clamped percentage of 20 to 33. -/
def Obligations.LowCountTakesOneUnit : Prop :=
  Row 0xDE#8 0x4C#8 (fun i => ∃ st p, i = .lowCount st p) ∧
  (∀ (st p : Bool) (s : State), s.hasReset = true →
    (s.regs.rem = 2#2 → exec (.lowCount st p) s = .next { s with regs := { s.regs with rem := 1#2 } }) ∧
    (s.regs.rem = 0#2 ∨ s.regs.rem = 3#2 → exec (.lowCount st p) s = .fault (.invariantFault (.rem s.regs.rem)))) ∧
  (∀ s : State, s.Inv → s.regs.fsm = sLow →
    s.regs.rem = 1#2 ∨
    (s.regs.rem = 2#2 ∧ s.regs.offLen = 2#2 ∧ 20 ≤ clamped s.regs.stValue ∧ clamped s.regs.stValue ≤ 33))

/-- R137: PULSE_NEXT counts the pulse and begins the next one, publishing nothing; it faults first on a `p` that is not 0 or
1 and then on an `on_len` that is not 1 or 2. -/
def Obligations.PulseNextCountsAndBegins : Prop :=
  Row 0xDF#8 0x4E#8 (fun i => ∃ st, i = .pulseNext st) ∧
  (∀ (st : Bool) (s : State), s.hasReset = true →
    (s.regs.p = 0#2 ∨ s.regs.p = 1#2 → s.regs.onLen = 1#2 ∨ s.regs.onLen = 2#2 →
      exec (.pulseNext st) s = .next { s with
        regs := { s.regs with
          cycle := s.regs.cycle + 1#64, p := s.regs.p + 1#2, outQ := true, rem := s.regs.onLen, fsm := 2#3 } }) ∧
    (¬(s.regs.p = 0#2 ∨ s.regs.p = 1#2) → exec (.pulseNext st) s = .fault (.invariantFault (.p s.regs.p))) ∧
    (s.regs.p = 0#2 ∨ s.regs.p = 1#2 → s.regs.onLen = 0#2 ∨ s.regs.onLen = 3#2 →
      exec (.pulseNext st) s = .fault (.invariantFault (.onLen s.regs.onLen))))

/-- R138: SAMPLE_NEXT counts the third pulse, advances the phase by one modulo 2^32, and publishes the sample of the new
phase and count; from the invariants the published count is three more than the last one. -/
def Obligations.SampleNextAdvancesAndPublishes : Prop :=
  Row 0xFF#8 0x4F#8 (fun i => i = .sampleNext) ∧
  (∀ s : State, s.hasReset = true →
    exec .sampleNext s = .next { s with
      regs := published (s.regs.phase + 1#32) (s.regs.cycle + 1#64)
        { s.regs with cycle := s.regs.cycle + 1#64, phase := s.regs.phase + 1#32 } }) ∧
  (∀ s : State, s.Inv → s.regs.fsm = sLow → s.regs.p = 2#2 →
    ∃ t, exec .sampleNext s = .next t ∧ t.regs.stCycle = s.regs.stCycle + 3#64)

/-- R139: SAMPLE_STOP counts the third pulse, advances the phase, lowers the line and stops, publishing nothing; from the
invariants `ST_CYCLE` then stays three less than `cycle`. -/
def Obligations.SampleStopAdvancesAndStops : Prop :=
  Row 0xFF#8 0x6F#8 (fun i => i = .sampleStop) ∧
  (∀ s : State, s.hasReset = true →
    exec .sampleStop s = .next { s with
      regs := { s.regs with
        cycle := s.regs.cycle + 1#64, phase := s.regs.phase + 1#32, outQ := false, fsm := 4#3 } }) ∧
  (∀ s : State, s.Inv → s.regs.fsm = sLow → s.regs.p = 2#2 →
    s.regs.outQ = false ∧ ∃ t, exec .sampleStop s = .next t ∧ t.regs.cycle = t.regs.stCycle + 3#64)

/-- R140: DONE_HOLD writes no register, and in `S_DONE` it is the operation of every edge but a RESET; the line stays low and
driven. -/
def Obligations.DoneHoldKeepsAll : Prop :=
  Row 0x9C#8 0x10#8 (fun i => ∃ t st e p, i = .doneHold t st e p) ∧
  (∀ (t st e p : Bool) (s : State), s.hasReset = true → exec (.doneHold t st e p) s = .next s) ∧
  (∀ s : State, s.regs.fsm = sDone → s.ports.rst = false →
    ∃ t st e p, decodeEdge (decodeWordOf s) = .doneHold t st e p) ∧
  (∀ s : State, s.Inv → s.regs.fsm = sDone → pwmOe s = true ∧ pwmOut s = false)

/-- R182: the three ILLEGAL_STATE rows stop with the fault IllegalState of the `fsm` code; no state with the invariants
selects one, and RESET leaves any state that does. -/
def Obligations.IllegalStateStops : Prop :=
  Row 0x9C#8 0x14#8 (fun i => ∃ t st e p, i = .illegalState5 t st e p) ∧
  Row 0x9C#8 0x18#8 (fun i => ∃ t st e p, i = .illegalState6 t st e p) ∧
  Row 0x9C#8 0x1C#8 (fun i => ∃ t st e p, i = .illegalState7 t st e p) ∧
  (∀ (i : Instr) (s : State), IsIllegal i → s.hasReset = true → exec i s = .fault (.illegalState s.regs.fsm)) ∧
  (∀ s : State, s.Inv → ¬IsIllegal (decodeEdge (decodeWordOf s))) ∧
  (∀ s : State, s.ports.rst = true → edgeResult s = .next { s with regs := Regs.reset, hasReset := true })

/-- R58, R81 and R56: each read completes in every state and gives the reader its register: zero-extended (the same natural
number), sign-extended at address 1 (the same integer), whole at address 6, 0 at address 7; nothing else changes, so a second
read gives the same word. -/
def Obligations.ReadsGiveTheirRegister : Prop :=
  (∀ s : State, ∃ t, exec .rdIndex s = .next t ∧ t.rdata.toNat = s.regs.stIndex.toNat ∧ t = { s with rdata := t.rdata }) ∧
  (∀ s : State, ∃ t, exec .rdValue s = .next t ∧ t.rdata.toInt = s.regs.stValue.toInt ∧ t = { s with rdata := t.rdata }) ∧
  (∀ s : State, ∃ t, exec .rdDuty s = .next t ∧ t.rdata.toNat = s.regs.stDuty.toNat ∧ t = { s with rdata := t.rdata }) ∧
  (∀ s : State, ∃ t, exec .rdPeriod s = .next t ∧ t.rdata.toNat = s.regs.stPeriod.toNat ∧
    t = { s with rdata := t.rdata }) ∧
  (∀ s : State, ∃ t, exec .rdHighEnd s = .next t ∧ t.rdata.toNat = s.regs.stHighEnd.toNat ∧
    t = { s with rdata := t.rdata }) ∧
  (∀ s : State, ∃ t, exec .rdPeriodEnd s = .next t ∧ t.rdata.toNat = s.regs.stPeriodEnd.toNat ∧
    t = { s with rdata := t.rdata }) ∧
  (∀ s : State, ∃ t, exec .rdCycle s = .next t ∧ t.rdata = s.regs.stCycle ∧ t = { s with rdata := t.rdata }) ∧
  (∀ s : State, ∃ t, exec .rdRsvd s = .next t ∧ t.rdata = 0#64 ∧ t = { s with rdata := t.rdata }) ∧
  (∀ (a : PortAddr) (s : State), exec (decodeRead a) s = .next { s with rdata := memRead a s.regs })

/-- R63: after any moves of host and reader, a read of address 0 returns at most 2047. -/
def Obligations.IndexReadStaysInRange : Prop :=
  ∀ (ms : List Move) (s t : State), playMoves ms s = .next t →
    ∃ u, exec (decodeRead 0#3) t = .next u ∧ u.rdata.toNat ≤ 2047

/-- Derived from R210 and R133: where nothing has been published every status word reads 0, except that address 3 reads the
nominal period from the INIT edge on: between reset and the first publish, and, after ARM_STOP, for as long as no reset comes,
whatever else host and reader do. -/
def Obligations.UnpublishedStatusReadsZero : Prop :=
  (∀ (s : State) (a : PortAddr), s.Inv → s.regs.fsm = sInit ∨ s.regs.fsm = sArm →
    ∃ t, exec (decodeRead a) s = .next t ∧ t.regs = s.regs ∧
      t.rdata = (if a = 3#3 ∧ s.regs.fsm = sArm then nominalPeriod.zeroExtend 64 else 0#64)) ∧
  (∀ (s : State) (e p : Bool) (ms : List Move) (a : PortAddr), s.Inv → s.regs.fsm = sArm → NoResetIn ms →
    ∃ u v t, exec (.armStop e p) s = .next u ∧ playMoves ms u = .next v ∧ exec (decodeRead a) v = .next t ∧
      v.regs.fsm = sDone ∧ t.regs = v.regs ∧ t.rdata = (if a = 3#3 then nominalPeriod.zeroExtend 64 else 0#64))

/-! ## The sample pipeline -/

/-- R79 and R102: the table index is bits 18 to 8 of the phase and depends on no other bit. -/
def Obligations.IndexIsPhaseBits18To8 : Prop :=
  (∀ ph : PhaseWord, (sineIndexOf ph).toNat = (ph.toNat >>> 8) &&& 0x7FF ∧ sineIndexOf ph = ph.extractLsb' 8 11) ∧
  (∀ ph ph' : PhaseWord, (∀ k, 8 ≤ k → k ≤ 18 → ph.getLsbD k = ph'.getLsbD k) → sineIndexOf ph = sineIndexOf ph') ∧
  sineIndexOf 0xFF#32 = 0#11 ∧ sineIndexOf 0x100#32 = 1#11 ∧ sineIndexOf 0x7FFFF#32 = 2047#11 ∧
  sineIndexOf 0x80000#32 = 0#11 ∧ sineIndexOf 0xFFFFFFFF#32 = 2047#11 ∧ sineIndexOf 0x12345678#32 = 1110#11

/-- R80 and R104: the normalised value is the pattern read as two's complement plus 32768, in 0 to 65535, which is the
unsigned number of the pattern with bit 15 inverted. -/
def Obligations.NormalisedIsBit15Inverted : Prop :=
  (∀ b : SinePattern,
    normalise (signed16 b) = (BitVec.ofBool (!b.getLsbD 15) ++ b.extractLsb' 0 15).toNat ∧
    (normalise (signed16 b) : Int) = signed16 b + 32768 ∧ normalise (signed16 b) ≤ 65535 ∧
    signed16 b = (if b.getLsbD 15 then (b.toNat : Int) - 65536 else b.toNat)) ∧
  normalise (-32768) = 0 ∧ normalise (-1) = 32767 ∧ normalise 0 = 32768 ∧ normalise 32767 = 65535

/-- R113: the ranges of every stage, for every table and every phase; no intermediate exceeds 6553500, and the percentage
never exceeds 99. -/
def Obligations.StageRanges : Prop :=
  ∀ (rom : SineIndex → SinePattern) (ph : PhaseWord),
    let x := sampleWith rom ph
    x.idx.toNat ≤ 2047 ∧ -32768 ≤ x.val ∧ x.val ≤ 32767 ∧ x.nrm ≤ 65535 ∧ x.pct ≤ 99 ∧
    x.dval = 40 * x.pct ∧ x.dval ≤ 3960 ∧ 20 ≤ x.c ∧ x.c ≤ 80 ∧ (x.on = 1 ∨ x.on = 2) ∧ (x.off = 1 ∨ x.off = 2) ∧
    x.nrm * 100 ≤ 6553500 ∧ x.pct * 4000 ≤ 6553500 ∧ x.c * 3 ≤ 6553500 ∧ (100 - x.c) * 3 ≤ 6553500

/-- R110: the three classes of the timing calculator by sample value, with their clamped and pre-clamp percentages, their on
and off times and the units of a pulse and of a sample; the times are at least 1 and never both 2. -/
def Obligations.TimingClasses : Prop :=
  (∀ val : Int, -32768 ≤ val → val ≤ 32767 →
    let p := percentOf (normalise val)
    let c := clampPercent p
    (val ≤ -10486 → p ≤ 33 ∧ 20 ≤ c ∧ c ≤ 33 ∧ onTime c = 1 ∧ offTime c = 2 ∧ 3 * (onTime c + offTime c) = 9) ∧
    (-10485 ≤ val → val ≤ 11141 →
      34 ≤ p ∧ p ≤ 66 ∧ c = p ∧ onTime c = 1 ∧ offTime c = 1 ∧ 3 * (onTime c + offTime c) = 6) ∧
    (11142 ≤ val →
      67 ≤ p ∧ p ≤ 99 ∧ 67 ≤ c ∧ c ≤ 80 ∧ onTime c = 2 ∧ offTime c = 1 ∧ 3 * (onTime c + offTime c) = 9) ∧
    1 ≤ onTime c ∧ 1 ≤ offTime c ∧ ¬(onTime c = 2 ∧ offTime c = 2)) ∧
  percentOf (normalise (-10486)) = 33 ∧ percentOf (normalise (-10485)) = 34 ∧
  percentOf (normalise 11141) = 66 ∧ percentOf (normalise 11142) = 67

/-- Derived from R114: the percentage and the published duty do not decrease with the sample value, the on time does not
decrease and the off time does not increase with the clamped percentage. -/
def Obligations.StagesAreMonotone : Prop :=
  (∀ v v' : Int, -32768 ≤ v → v ≤ v' → v' ≤ 32767 →
    percentOf (normalise v) ≤ percentOf (normalise v') ∧
    publishedDuty (percentOf (normalise v)) ≤ publishedDuty (percentOf (normalise v'))) ∧
  (∀ c c' : Nat, 20 ≤ c → c ≤ c' → c' ≤ 80 → onTime c ≤ onTime c' ∧ offTime c' ≤ offTime c)

/-- R115: the least sample value with a given percentage is `ceil(pct * 65536 / 100) - 32768`. -/
def Obligations.LeastSampleOfEachPercentage : Prop :=
  ∀ pct : Nat, pct ≤ 99 →
    let least : Int := ((pct * 65536 + 99) / 100 : Nat) - 32768
    percentOf (normalise least) = pct ∧ -32768 ≤ least ∧
    ∀ v : Int, -32768 ≤ v → v ≤ 32767 → percentOf (normalise v) = pct → least ≤ v

/-! ## Faults, frames and invariants -/

/-- Derived from R181, R137 and R184: the faults of a step at an edge are exactly those of R181's table, with their conditions
and what they record; a read or a CFG never faults. Three clauses are the model's reading of these rules, each DEDUCED: that
NoReset comes before every other fault, a power-up state being one with `hasReset` false (log entry 7); that a fault stays the
outcome of the run (log entry 8); that PULSE_NEXT records the one register that fails first, `p` before `on_len`, where the
table of R181 lists both (log entry 9). -/
def Obligations.FaultsAreExactlyTheTable : Prop :=
  (∀ (s : State) (rst tick stop : Bool) (ms : List Move) (f : Fault), s.moves = .edge rst tick stop :: ms →
    (step s = .fault f ↔ rst = false ∧
      ((s.hasReset = false ∧ f = .noReset) ∨
       (s.hasReset = true ∧
        (((s.regs.fsm = 5#3 ∨ s.regs.fsm = 6#3 ∨ s.regs.fsm = 7#3) ∧ f = .illegalState s.regs.fsm) ∨
         (tick = true ∧
          (((s.regs.fsm = sHigh ∨ s.regs.fsm = sLow) ∧ (s.regs.rem = 0#2 ∨ s.regs.rem = 3#2) ∧
              f = .invariantFault (.rem s.regs.rem)) ∨
           (s.regs.fsm = sHigh ∧ s.regs.rem = 1#2 ∧ (s.regs.offLen = 0#2 ∨ s.regs.offLen = 3#2) ∧
              f = .invariantFault (.offLen s.regs.offLen)) ∨
           (s.regs.fsm = sLow ∧ s.regs.rem = 1#2 ∧ s.regs.p = 3#2 ∧ f = .invariantFault (.p s.regs.p)) ∨
           (s.regs.fsm = sLow ∧ s.regs.rem = 1#2 ∧ (s.regs.p = 0#2 ∨ s.regs.p = 1#2) ∧
              (s.regs.onLen = 0#2 ∨ s.regs.onLen = 3#2) ∧ f = .invariantFault (.onLen s.regs.onLen))))))))) ∧
  (∀ (s : State) (a : PortAddr) (pin carrier sine : CfgWord) (ms : List Move) (f : Fault),
    s.moves = .read a :: ms ∨ s.moves = .cfg pin carrier sine :: ms → step s ≠ .fault f) ∧
  (∀ (j k : Nat) (s : State) (f : Fault),
    Sys2Proof.core.run j s = .fault f → Sys2Proof.core.run (j + k) s = .fault f)

/-- Derived from R41 and R40: the state after reset satisfies I1 to I7. -/
def Obligations.ResetStateMeetsInvariants : Prop := State.reset.Inv

/-- Derived from R40: every step from a state with the invariants I1 to I7, drawn moves included, gives a state with them. -/
def Obligations.StepKeepsInvariants : Prop :=
  ∀ s t : State, s.Inv → step s = .next t → t.Inv

/-- R180: from a state with the invariants no step can fail, and no operation is refused in any state. -/
def Obligations.NoStepFailsUnderInvariants : Prop :=
  (∀ s : State, s.Inv → ∃ t, step s = .next t) ∧ ∀ (s : State) (q : Refusal), step s ≠ .refused q

/-- R130: no operation of the sequencer writes `oe_q`, `ST_PERIOD`, `ST_HIGHEND`, `ST_PERIODEND` or a `cfg_*_q` register, and
their only faults after a reset are invariant faults, which no state with the invariants raises. -/
def Obligations.SequencerFrame : Prop :=
  (∀ (i : Instr) (s t : State), IsSequencer i → exec i s = .next t →
    t.regs.oeQ = s.regs.oeQ ∧ t.regs.stPeriod = s.regs.stPeriod ∧ t.regs.stHighEnd = s.regs.stHighEnd ∧
    t.regs.stPeriodEnd = s.regs.stPeriodEnd ∧ t.regs.cfgPinQ = s.regs.cfgPinQ ∧
    t.regs.cfgCarrierQ = s.regs.cfgCarrierQ ∧ t.regs.cfgSineQ = s.regs.cfgSineQ) ∧
  (∀ (i : Instr) (s : State) (f : Fault), IsSequencer i → s.hasReset = true → exec i s = .fault f →
    ∃ info, f = .invariantFault info) ∧
  (∀ (s : State) (f : Fault), s.Inv → edgeResult s ≠ .fault f)

/-- R32: no operation but reset writes `ST_HIGHEND` and `ST_PERIODEND`, which reset sets to 0, so they stay 0 in every run. -/
def Obligations.HighEndAndPeriodEndNeverWritten : Prop :=
  (∀ (i : Instr) (s t : State), exec i s = .next t →
    (¬IsReset i → t.regs.stHighEnd = s.regs.stHighEnd ∧ t.regs.stPeriodEnd = s.regs.stPeriodEnd) ∧
    (IsReset i → t.regs.stHighEnd = 0#32 ∧ t.regs.stPeriodEnd = 0#32)) ∧
  (∀ s t : State, s.regs.stHighEnd = 0#32 → s.regs.stPeriodEnd = 0#32 → step s = .next t →
    t.regs.stHighEnd = 0#32 ∧ t.regs.stPeriodEnd = 0#32)

/-- Derived from R141: `cycle` changes only at RESET, to 0, and by one at the three operations that end a low phase; `phase`
changes only at RESET, to 0, and by one at the two that end a sample (R22). -/
def Obligations.CycleCountsEndedPulses : Prop :=
  ∀ (i : Instr) (s t : State), exec i s = .next t →
    (IsReset i → t.regs.cycle = 0#64 ∧ t.regs.phase = 0#32) ∧
    ((∃ st, i = .pulseNext st) → t.regs.cycle = s.regs.cycle + 1#64 ∧ t.regs.phase = s.regs.phase) ∧
    (i = .sampleNext ∨ i = .sampleStop →
      t.regs.cycle = s.regs.cycle + 1#64 ∧ t.regs.phase = s.regs.phase + 1#32) ∧
    (¬IsReset i → (∀ st, i ≠ .pulseNext st) → i ≠ .sampleNext → i ≠ .sampleStop →
      t.regs.cycle = s.regs.cycle ∧ t.regs.phase = s.regs.phase)

/-- Derived from R28 and R60: at every step the four published fields stay, or are reset to 0, or are all four those of the
phase and count the step leaves. -/
def Obligations.PublishedFieldsChangeTogether : Prop :=
  ∀ s t : State, step s = .next t →
    (t.regs.stIndex = s.regs.stIndex ∧ t.regs.stValue = s.regs.stValue ∧ t.regs.stDuty = s.regs.stDuty ∧
      t.regs.stCycle = s.regs.stCycle) ∨
    (t.regs.stIndex = 0#11 ∧ t.regs.stValue = 0#16 ∧ t.regs.stDuty = 0#12 ∧ t.regs.stCycle = 0#64 ∧
      t.regs.fsm = sInit) ∨
    (t.regs.stIndex = sineIndexOf t.regs.phase ∧ t.regs.stValue = romRead (sineIndexOf t.regs.phase) ∧
      t.regs.stDuty.toNat = 40 * pct t.regs.stValue ∧ t.regs.stCycle = t.regs.cycle ∧ t.regs.fsm = sHigh)

/-- R30: `ST_DUTY` is 0 after reset, 40 times the pre-clamp percentage after a publish, and a multiple of 40 up to 3960 in
every state that a step gives from a state where it is one. -/
def Obligations.DutyIsAMultipleOf40 : Prop :=
  State.reset.regs.stDuty = 0#12 ∧
  (∀ (ph : PhaseWord) (cyc : CycleWord) (r : Regs),
    pct (startSample ph cyc r).stValue ≤ 99 ∧
    (startSample ph cyc r).stDuty.toNat = 40 * pct (startSample ph cyc r).stValue) ∧
  (∀ s t : State, (∃ d, d ≤ 99 ∧ s.regs.stDuty.toNat = 40 * d) → step s = .next t →
    ∃ d, d ≤ 99 ∧ t.regs.stDuty.toNat = 40 * d)

/-- R146: the transition table: which operation an edge performs, by its mnemonic, and the state it leaves. -/
def Obligations.TransitionTable : Prop :=
  ∀ s t : State, edgeResult s = .next t →
    ((decodeEdge (decodeWordOf s)).row.mnemonic, t.regs.fsm) =
      if s.ports.rst then ("RESET", sInit)
      else if s.regs.fsm = sInit then ("INIT", sArm)
      else if s.regs.fsm = sArm then
        if !s.ports.tick then ("HOLD_ARM", sArm)
        else if !s.ports.stop then ("ARM_START", sHigh) else ("ARM_STOP", sDone)
      else if s.regs.fsm = sHigh then
        if !s.ports.tick then ("HOLD_HIGH", sHigh)
        else if s.regs.rem ≠ 1#2 then ("HIGH_COUNT", sHigh) else ("HIGH_END", sLow)
      else if s.regs.fsm = sLow then
        if !s.ports.tick then ("HOLD_LOW", sLow)
        else if s.regs.rem ≠ 1#2 then ("LOW_COUNT", sLow)
        else if s.regs.p ≠ 2#2 then ("PULSE_NEXT", sHigh)
        else if !s.ports.stop then ("SAMPLE_NEXT", sHigh) else ("SAMPLE_STOP", sDone)
      else ("DONE_HOLD", sDone)

/-- Derived from R147 and R75: at an edge that is no iteration boundary, an edge with `stop` = 1 does what the same edge with
`stop` = 0 does, to every register and in every fault, and no trace of `stop` stays but its own input level. That the state
after the edge still holds that level, and the level of `st_addr`, is the model's choice, DESIGN CHOICE (log entry 18). -/
def Obligations.StopActsOnlyAtBoundaries : Prop :=
  ∀ (s : State) (rst tick : Bool) (ms : List Move),
    ¬(rst = false ∧ tick = true ∧
      (s.regs.fsm = sArm ∨ (s.regs.fsm = sLow ∧ s.regs.rem = 1#2 ∧ s.regs.p = 2#2))) →
    (∀ t, step { s with moves := .edge rst tick true :: ms } = .next t →
      step { s with moves := .edge rst tick false :: ms } = .next { t with ports := { t.ports with stop := false } }) ∧
    (∀ f, step { s with moves := .edge rst tick true :: ms } = .fault f ↔
      step { s with moves := .edge rst tick false :: ms } = .fault f)

/-- Derived from R34, R37 and R211: the latched configuration changes only at RESET, to 0, and at INIT, to the levels then on
the inputs, so `pin_sel` stays from INIT to the next reset; and each output port is the function of the state that R37 gives:
`pin_sel` the latched pin, `pwm_out` and `pwm_oe` their registers, `done` 1 exactly in `S_DONE`, and `st_rdata` the word that a
read of the present `st_addr` samples. -/
def Obligations.ConfigurationLatchedOnlyAtInit : Prop :=
  (∀ (i : Instr) (s t : State), exec i s = .next t →
    ((∃ tk st e p, i = .init tk st e p) →
      t.regs.cfgPinQ = s.ports.cfgPin ∧ t.regs.cfgCarrierQ = s.ports.cfgCarrierHz ∧
      t.regs.cfgSineQ = s.ports.cfgSineHz) ∧
    (IsReset i → t.regs.cfgPinQ = 0#32 ∧ t.regs.cfgCarrierQ = 0#32 ∧ t.regs.cfgSineQ = 0#32) ∧
    (¬IsReset i → (∀ tk st e p, i ≠ .init tk st e p) →
      t.regs.cfgPinQ = s.regs.cfgPinQ ∧ t.regs.cfgCarrierQ = s.regs.cfgCarrierQ ∧
      t.regs.cfgSineQ = s.regs.cfgSineQ)) ∧
  (∀ s t : State, step s = .next t → s.regs.fsm ≠ sInit → t.regs.fsm ≠ sInit → pinSel t = pinSel s) ∧
  (∀ s : State, pinSel s = s.regs.cfgPinQ ∧ pwmOut s = s.regs.outQ ∧ pwmOe s = s.regs.oeQ ∧
    (done s = true ↔ s.regs.fsm = sDone) ∧
    exec (decodeRead s.ports.stAddr) s = .next { s with rdata := stRdata s })

/-! ## Runs -/

/-- R148: an operation at an edge gives the same registers, the latched configuration and `ST_PERIOD` apart, or the same
fault, whatever those held before; and two runs that differ only in the configuration inputs (and in what was latched from them) agree in every register
but the latched configuration, in what the reader samples, and in whether they fault. -/
def Obligations.ConfigurationNeverConsulted : Prop :=
  (∀ (i : Instr) (s s' : State), i.format = .fsm → sansUnread s.regs = sansUnread s'.regs → s.hasReset = s'.hasReset →
    (∀ t, exec i s = .next t → ∃ t', exec i s' = .next t' ∧ sansUnread t.regs = sansUnread t'.regs) ∧
    (∀ f, exec i s = .fault f → exec i s' = .fault f)) ∧
  ∀ (ms ms' : List Move) (s s' : State), List.Forall₂ SameButConfig ms ms' →
    sansConfig s.regs = sansConfig s'.regs → s.hasReset = s'.hasReset → s.rdata = s'.rdata →
    (∀ t, playMoves ms s = .next t →
      ∃ t', playMoves ms' s' = .next t' ∧ sansConfig t.regs = sansConfig t'.regs ∧ t.rdata = t'.rdata ∧
        pwmOut t = pwmOut t') ∧
    (∀ f, playMoves ms s = .fault f → playMoves ms' s' = .fault f)

/-- R142: a pulse that has just begun is high until its `on_len`-th tick and low from there until its
`on_len + off_len`-th, whatever edges without a tick, reads, configuration moves and `stop` levels fall between; that tick
begins the next pulse, or stops with the line low. -/
def Obligations.PulseWaveform : Prop :=
  ∀ (ms : List Move) (s : State), s.Inv → s.regs.fsm = sHigh → s.regs.rem = s.regs.onLen → NoResetIn ms →
    ∃ t, playMoves ms s = .next t ∧
    (tickCount ms < s.regs.onLen.toNat → pwmOut t = true) ∧
    (s.regs.onLen.toNat ≤ tickCount ms → tickCount ms < s.regs.onLen.toNat + s.regs.offLen.toNat →
      pwmOut t = false) ∧
    (tickCount ms = s.regs.onLen.toNat + s.regs.offLen.toNat →
      (pwmOut t = true ∧ t.regs.fsm = sHigh ∧ t.regs.rem = t.regs.onLen ∧ t.regs.cycle = s.regs.cycle + 1#64) ∨
      (pwmOut t = false ∧ t.regs.fsm = sDone ∧ s.regs.p = 2#2 ∧ t.regs.cycle = s.regs.cycle + 1#64))

/-- R143: from a publish, for fewer than `3 * (on_len + off_len)` ticks the sample stays: same phase, published fields and
lengths, the line high for the first `on_len` units of each pulse, with 6 or 9 units in all; at that many ticks exactly three more pulses are counted, the phase has advanced by one,
and the next sample has just been published, or SPDG has stopped because `stop` was asked for. -/
def Obligations.SampleLastsThreePulses : Prop :=
  ∀ (ms : List Move) (s : State), s.Inv → s.regs.fsm = sHigh → s.regs.p = 0#2 → s.regs.rem = s.regs.onLen →
    NoResetIn ms → ∃ t, playMoves ms s = .next t ∧
    (3 * (s.regs.onLen.toNat + s.regs.offLen.toNat) = 6 ∨ 3 * (s.regs.onLen.toNat + s.regs.offLen.toNat) = 9) ∧
    (tickCount ms < 3 * (s.regs.onLen.toNat + s.regs.offLen.toNat) →
      t.regs.phase = s.regs.phase ∧ t.regs.stIndex = s.regs.stIndex ∧ t.regs.stValue = s.regs.stValue ∧
      t.regs.stDuty = s.regs.stDuty ∧ t.regs.stCycle = s.regs.stCycle ∧ t.regs.onLen = s.regs.onLen ∧
      t.regs.offLen = s.regs.offLen ∧
      t.regs.p.toNat = tickCount ms / (s.regs.onLen.toNat + s.regs.offLen.toNat) ∧
      (pwmOut t = true ↔ tickCount ms % (s.regs.onLen.toNat + s.regs.offLen.toNat) < s.regs.onLen.toNat)) ∧
    (tickCount ms = 3 * (s.regs.onLen.toNat + s.regs.offLen.toNat) →
      t.regs.phase = s.regs.phase + 1#32 ∧ t.regs.cycle = s.regs.cycle + 3#64 ∧
      ((t.regs.fsm = sHigh ∧ t.regs.p = 0#2 ∧ t.regs.rem = t.regs.onLen ∧
          t.regs.stCycle = s.regs.stCycle + 3#64) ∨
       (t.regs.fsm = sDone ∧ t.regs.stCycle = s.regs.stCycle ∧ ∃ m ∈ ms, m.isStop = true)))

/-- R144 and R145: ARM_START begins sample 0, SAMPLE_NEXT leads from sample n to sample n + 1, and no other step without a
reset, a drawn move's included, changes the sample, but SAMPLE_STOP ends it in `S_DONE` with its publish standing, where sample n has phase `n mod 2^32`, index `(n >> 8) mod 2048` and publishes `3n mod 2^64`; so an
index serves 256 samples, the indices repeat after 2^19 and no sooner, and the phases after 2^32. -/
def Obligations.SampleNumbering : Prop :=
  (∀ (s t : State) (e p : Bool), s.Inv → s.regs.fsm = sArm → exec (.armStart e p) s = .next t → InSample 0 t.regs) ∧
  (∀ (s t : State) (n : Nat), s.Inv → InSample n s.regs → s.regs.p = 2#2 → exec .sampleNext s = .next t →
    InSample (n + 1) t.regs) ∧
  (∀ (s : State) (n : Nat), s.Inv → InSample n s.regs → (nextMove s).1.isReset = false →
    ∃ t, step s = .next t ∧
      ((fetch s).1 = some .sampleNext → InSample (n + 1) t.regs) ∧
      ((fetch s).1 = some .sampleStop →
        t.regs.fsm = sDone ∧ t.regs.stIndex = s.regs.stIndex ∧ t.regs.stCycle = s.regs.stCycle) ∧
      ((fetch s).1 ≠ some .sampleNext → (fetch s).1 ≠ some .sampleStop → InSample n t.regs)) ∧
  (∀ n : Nat, BitVec.ofNat 11 ((n + 524288) / 256) = BitVec.ofNat 11 (n / 256)) ∧
  (∀ k : Nat, 0 < k → k < 524288 → ∃ n, BitVec.ofNat 11 ((n + k) / 256) ≠ BitVec.ofNat 11 (n / 256)) ∧
  (∀ n : Nat, BitVec.ofNat 32 (n + 4294967296) = BitVec.ofNat 32 n) ∧
  (∀ n k : Nat, k < 256 → BitVec.ofNat 11 ((256 * n + k) / 256) = BitVec.ofNat 11 n)

/-- Derived from R131, R140 and R192: after INIT, moves that end no time unit and do not reset leave every register as it
was, however many they are. -/
def Obligations.NothingMovesWithoutATick : Prop :=
  ∀ (ms : List Move) (s : State), s.Inv → s.regs.fsm ≠ sInit → NoResetIn ms → tickCount ms = 0 →
    ∃ t, playMoves ms s = .next t ∧ t.regs = s.regs

/-- Derived from R140, R147 and R219: a final state stays final, with every register as it was, under every list of moves
without a reset. -/
def Obligations.DoneUntilReset : Prop :=
  ∀ (ms : List Move) (s : State), s.Final → NoResetIn ms →
    ∃ t, playMoves ms s = .next t ∧ t.regs = s.regs ∧ t.Final

/-- Derived from R42, R133, R139 and R219: after a reset ARM_STOP and SAMPLE_STOP lead to a final state; every other step that
ends in a final state began in one; moves without a stop make no run final, and neither do moves without a reset from a
state before the first reset. -/
def Obligations.OnlyTheStopsEndARun : Prop :=
  (∀ (e p : Bool) (s : State), s.hasReset = true → ∃ t, exec (.armStop e p) s = .next t ∧ t.Final) ∧
  (∀ s : State, s.hasReset = true → ∃ t, exec .sampleStop s = .next t ∧ t.Final) ∧
  (∀ s t : State, step s = .next t → t.Final →
    s.Final ∨ (∃ e p, (fetch s).1 = some (.armStop e p)) ∨ (fetch s).1 = some .sampleStop) ∧
  (∀ (ms : List Move) (s t : State), ¬s.Final → (∀ m ∈ ms, m.isStop = false) → playMoves ms s = .next t → ¬t.Final) ∧
  (∀ (ms : List Move) (s t : State), s.hasReset = false → NoResetIn ms → playMoves ms s = .next t → ¬t.Final)

/-- Derived from R62 and R149: a later value of `ST_CYCLE` is no smaller, provided the pulse counter cannot wrap in the run
and no reset falls in it. -/
def Obligations.PublishedCycleDoesNotDecrease : Prop :=
  ∀ (ms : List Move) (s : State), s.Inv → s.regs.stCycle ≤ s.regs.cycle →
    s.regs.cycle.toNat + tickCount ms < 2 ^ 64 → NoResetIn ms →
    ∃ t, playMoves ms s = .next t ∧ s.regs.stCycle ≤ t.regs.stCycle ∧ t.regs.stCycle ≤ t.regs.cycle

/-- Derived from R209: once a sample is published, two equal values of `ST_CYCLE` in a run without a reset or a wrap bracket
no publish: the other published fields are equal too. -/
def Obligations.EqualCyclesBracketNoPublish : Prop :=
  ∀ (ms : List Move) (s : State), s.Inv → s.regs.fsm ≠ sInit → s.regs.fsm ≠ sArm →
    s.regs.stCycle ≤ s.regs.cycle → s.regs.cycle.toNat + tickCount ms < 2 ^ 64 → NoResetIn ms →
    ∃ t, playMoves ms s = .next t ∧
    (t.regs.stCycle = s.regs.stCycle →
      t.regs.stIndex = s.regs.stIndex ∧ t.regs.stValue = s.regs.stValue ∧ t.regs.stDuty = s.regs.stDuty)

/-- R202: from the reset registers the next edge, whatever its `tick` and `stop`, is INIT; any moves that end no unit leave
`S_ARM` with nothing published and the line low; the first tick edge then starts sample 0 at phase 0 and entry 0, or stops. -/
def Obligations.BootReachesFirstSample : Prop :=
  ∀ (s : State) (tk st stop : Bool) (idles : List Move), s.hasReset = true → s.regs = Regs.reset →
    NoResetIn idles → tickCount idles = 0 →
    (∃ u, playMoves (.edge false tk st :: idles) s = .next u ∧ u.regs.fsm = sArm ∧ pwmOut u = false ∧
      pwmOe u = true ∧ u.regs.stPeriod = nominalPeriod ∧ u.regs.stIndex = 0#11 ∧ u.regs.stValue = 0#16 ∧
      u.regs.stDuty = 0#12 ∧ u.regs.stCycle = 0#64) ∧
    (∃ t, playMoves (.edge false tk st :: (idles ++ [.edge false true stop])) s = .next t ∧
      t.regs.phase = 0#32 ∧ t.regs.stCycle = 0#64 ∧
      (stop = false → t.regs.fsm = sHigh ∧ pwmOut t = true ∧ t.regs.stIndex = 0#11 ∧
        t.regs.stValue = romRead 0#11) ∧
      (stop = true → t.regs.fsm = sDone ∧ pwmOut t = false ∧ t.regs.stValue = 0#16))

/-- Derived from R169: with 4000 in `ST_PERIOD`, the monitor's ratio of the words read at addresses 2 and 3 is the pre-clamp
percentage of the published sample. -/
def Obligations.DutyOverPeriodIsThePercentage : Prop :=
  ∀ (ph : PhaseWord) (cyc : CycleWord) (r : Regs), r.stPeriod = 4000#32 →
    (memRead 2#3 (startSample ph cyc r)).toNat * 100 / (memRead 3#3 (startSample ph cyc r)).toNat =
      pct (startSample ph cyc r).stValue
end

