-- ==== Sys2Proof/Laws/Decode.lean ====
section
/-! SUPPORT. The fields of a packed decode word, and the operation that a packed word selects in each state
(30_encoding.md R71 to R75). -/

namespace Sys2Proof

open Machine

/-! The five codes are distinct. -/

@[simp] theorem sInit_ne_sArm : (sInit = sArm) = False := by simp only [eq_iff_iff]; decide
@[simp] theorem sInit_ne_sHigh : (sInit = sHigh) = False := by simp only [eq_iff_iff]; decide
@[simp] theorem sInit_ne_sLow : (sInit = sLow) = False := by simp only [eq_iff_iff]; decide
@[simp] theorem sInit_ne_sDone : (sInit = sDone) = False := by simp only [eq_iff_iff]; decide
@[simp] theorem sArm_ne_sInit : (sArm = sInit) = False := by simp only [eq_iff_iff]; decide
@[simp] theorem sArm_ne_sHigh : (sArm = sHigh) = False := by simp only [eq_iff_iff]; decide
@[simp] theorem sArm_ne_sLow : (sArm = sLow) = False := by simp only [eq_iff_iff]; decide
@[simp] theorem sArm_ne_sDone : (sArm = sDone) = False := by simp only [eq_iff_iff]; decide
@[simp] theorem sHigh_ne_sInit : (sHigh = sInit) = False := by simp only [eq_iff_iff]; decide
@[simp] theorem sHigh_ne_sArm : (sHigh = sArm) = False := by simp only [eq_iff_iff]; decide
@[simp] theorem sHigh_ne_sLow : (sHigh = sLow) = False := by simp only [eq_iff_iff]; decide
@[simp] theorem sHigh_ne_sDone : (sHigh = sDone) = False := by simp only [eq_iff_iff]; decide
@[simp] theorem sLow_ne_sInit : (sLow = sInit) = False := by simp only [eq_iff_iff]; decide
@[simp] theorem sLow_ne_sArm : (sLow = sArm) = False := by simp only [eq_iff_iff]; decide
@[simp] theorem sLow_ne_sHigh : (sLow = sHigh) = False := by simp only [eq_iff_iff]; decide
@[simp] theorem sLow_ne_sDone : (sLow = sDone) = False := by simp only [eq_iff_iff]; decide
@[simp] theorem sDone_ne_sInit : (sDone = sInit) = False := by simp only [eq_iff_iff]; decide
@[simp] theorem sDone_ne_sArm : (sDone = sArm) = False := by simp only [eq_iff_iff]; decide
@[simp] theorem sDone_ne_sHigh : (sDone = sHigh) = False := by simp only [eq_iff_iff]; decide
@[simp] theorem sDone_ne_sLow : (sDone = sLow) = False := by simp only [eq_iff_iff]; decide

section Fields

variable (r t s : Bool) (f : FsmCode) (e p : Bool)

@[simp] theorem dwRst_pack : dwRst (packDecodeWord r t s f e p) = r := by revert r t s f e p; decide
@[simp] theorem dwTick_pack : dwTick (packDecodeWord r t s f e p) = t := by revert r t s f e p; decide
@[simp] theorem dwStop_pack : dwStop (packDecodeWord r t s f e p) = s := by revert r t s f e p; decide
@[simp] theorem dwFsm_pack : dwFsm (packDecodeWord r t s f e p) = f := by revert r t s f e p; decide
@[simp] theorem dwRemIsOne_pack : dwRemIsOne (packDecodeWord r t s f e p) = e := by revert r t s f e p; decide
@[simp] theorem dwPIsTwo_pack : dwPIsTwo (packDecodeWord r t s f e p) = p := by revert r t s f e p; decide

/-- A decode word is its fields, packed. -/
theorem pack_fields (w : DecodeWord) :
    packDecodeWord (dwRst w) (dwTick w) (dwStop w) (dwFsm w) (dwRemIsOne w) (dwPIsTwo w) = w := by
  revert w; decide

end Fields

section Selected

variable (t s : Bool) (f : FsmCode) (e p : Bool)

@[simp] theorem decodeEdge_rst : decodeEdge (packDecodeWord true t s f e p) = .reset t s f e p := by
  revert t s f e p; decide

@[simp] theorem decodeEdge_init : decodeEdge (packDecodeWord false t s sInit e p) = .init t s e p := by
  revert t s e p; decide

@[simp] theorem decodeEdge_arm_idle : decodeEdge (packDecodeWord false false s sArm e p) = .holdArm s e p := by
  revert s e p; decide

@[simp] theorem decodeEdge_arm_tick :
    decodeEdge (packDecodeWord false true s sArm e p) = if s then .armStop e p else .armStart e p := by
  revert s e p; decide

@[simp] theorem decodeEdge_high_idle : decodeEdge (packDecodeWord false false s sHigh e p) = .holdHigh s e p := by
  revert s e p; decide

@[simp] theorem decodeEdge_high_tick :
    decodeEdge (packDecodeWord false true s sHigh e p) = if e then .highEnd s p else .highCount s p := by
  revert s e p; decide

@[simp] theorem decodeEdge_low_idle : decodeEdge (packDecodeWord false false s sLow e p) = .holdLow s e p := by
  revert s e p; decide

@[simp] theorem decodeEdge_low_tick :
    decodeEdge (packDecodeWord false true s sLow e p) =
      if e then (if p then (if s then .sampleStop else .sampleNext) else .pulseNext s) else .lowCount s p := by
  revert s e p; decide

@[simp] theorem decodeEdge_done : decodeEdge (packDecodeWord false t s sDone e p) = .doneHold t s e p := by
  revert t s e p; decide

@[simp] theorem decodeEdge_illegal5 : decodeEdge (packDecodeWord false t s 5#3 e p) = .illegalState5 t s e p := by
  revert t s e p; decide

@[simp] theorem decodeEdge_illegal6 : decodeEdge (packDecodeWord false t s 6#3 e p) = .illegalState6 t s e p := by
  revert t s e p; decide

@[simp] theorem decodeEdge_illegal7 : decodeEdge (packDecodeWord false t s 7#3 e p) = .illegalState7 t s e p := by
  revert t s e p; decide

end Selected

/-- The eight codes of a 3-bit state register (30_encoding.md R72). -/
theorem fsmCode_cases (f : FsmCode) :
    f = sInit ∨ f = sArm ∨ f = sHigh ∨ f = sLow ∨ f = sDone ∨ f = 5#3 ∨ f = 6#3 ∨ f = 7#3 := by
  revert f; decide

end Sys2Proof
end

