-- ==== Sys2Proof/Laws/Sample.lean ====
section
/-! SUPPORT. The stages of the sample pipeline, one lemma per stage saying what it can answer
(40_sample_pipeline.md R102 to R109). -/

namespace Sys2Proof.Machine

theorem signed16_bounds (b : SinePattern) : -32768 ≤ signed16 b ∧ signed16 b ≤ 32767 := by
  have h1 := BitVec.le_toInt b
  have h2 := BitVec.toInt_lt (x := b)
  unfold signed16
  constructor <;> omega

/-- The published pattern is the table's (R103, R111). -/
@[simp] theorem ofInt_signed16 (b : SinePattern) : BitVec.ofInt 16 (signed16 b) = b := BitVec.ofInt_toInt

theorem normalise_eq {v : Int} (h : -32768 ≤ v) : (normalise v : Int) = v + 32768 := by
  unfold normalise; omega

theorem percentOf_eq (n : Nat) : percentOf n = n * 100 / 65536 := by
  unfold percentOf; rw [Nat.shiftRight_eq_div_pow]

theorem patternPercent_le (b : SinePattern) : patternPercent b ≤ 99 := by
  have h := signed16_bounds b
  have h' := normalise_eq h.1
  unfold patternPercent
  rw [percentOf_eq]
  omega

theorem publishedDuty_eq (pct : Nat) : publishedDuty pct = 40 * pct := by unfold publishedDuty; omega

theorem clampPercent_bounds (pct : Nat) : 20 ≤ clampPercent pct ∧ clampPercent pct ≤ 80 := by
  unfold clampPercent; omega

theorem onTime_eq {c : Nat} (h : c ≤ 80) : onTime c = if c ≤ 66 then 1 else 2 := by
  unfold onTime; split <;> omega

theorem offTime_eq {c : Nat} (h : 20 ≤ c) : offTime c = if c ≤ 33 then 2 else 1 := by
  unfold offTime; split <;> omega

/-- The lengths START_SAMPLE latches are 1 or 2 (R110). -/
theorem onTime_clamp (pct : Nat) : onTime (clampPercent pct) = 1 ∨ onTime (clampPercent pct) = 2 := by
  rw [onTime_eq (clampPercent_bounds pct).2]; split <;> simp

theorem offTime_clamp (pct : Nat) : offTime (clampPercent pct) = 1 ∨ offTime (clampPercent pct) = 2 := by
  rw [offTime_eq (clampPercent_bounds pct).1]; split <;> simp

section Fields

variable (rom : SineIndex → SinePattern) (ph : PhaseWord)

@[simp] theorem sampleWith_idx : (sampleWith rom ph).idx = sineIndexOf ph := rfl
@[simp] theorem sampleWith_val : (sampleWith rom ph).val = signed16 (rom (sineIndexOf ph)) := rfl
@[simp] theorem sampleWith_nrm : (sampleWith rom ph).nrm = normalise (signed16 (rom (sineIndexOf ph))) := rfl
@[simp] theorem sampleWith_pct : (sampleWith rom ph).pct = patternPercent (rom (sineIndexOf ph)) := rfl
@[simp] theorem sampleWith_dval : (sampleWith rom ph).dval = publishedDuty (patternPercent (rom (sineIndexOf ph))) := rfl
@[simp] theorem sampleWith_c : (sampleWith rom ph).c = clampPercent (patternPercent (rom (sineIndexOf ph))) := rfl
@[simp] theorem sampleWith_on :
    (sampleWith rom ph).on = onTime (clampPercent (patternPercent (rom (sineIndexOf ph)))) := rfl
@[simp] theorem sampleWith_off :
    (sampleWith rom ph).off = offTime (clampPercent (patternPercent (rom (sineIndexOf ph)))) := rfl

end Fields

end Sys2Proof.Machine
end

