-- ==== Sys2Proof/Laws/State.lean ====
section
/-! SUPPORT. One lemma per field per update, so that no proof unfolds a record update. -/

namespace Sys2Proof.Machine

section StateUpdates

variable (s : State) (r : Regs) (w : PortWord) (q : Ports)

@[simp] theorem State.setRegs_regs : (s.setRegs r).regs = r := rfl
@[simp] theorem State.setRegs_ports : (s.setRegs r).ports = s.ports := rfl
@[simp] theorem State.setRegs_rdata : (s.setRegs r).rdata = s.rdata := rfl
@[simp] theorem State.setRegs_hasReset : (s.setRegs r).hasReset = s.hasReset := rfl
@[simp] theorem State.setRegs_moves : (s.setRegs r).moves = s.moves := rfl
@[simp] theorem State.setRegs_draws : (s.setRegs r).draws = s.draws := rfl

@[simp] theorem State.setRdata_regs : (s.setRdata w).regs = s.regs := rfl
@[simp] theorem State.setRdata_ports : (s.setRdata w).ports = s.ports := rfl
@[simp] theorem State.setRdata_rdata : (s.setRdata w).rdata = w := rfl
@[simp] theorem State.setRdata_hasReset : (s.setRdata w).hasReset = s.hasReset := rfl
@[simp] theorem State.setRdata_moves : (s.setRdata w).moves = s.moves := rfl
@[simp] theorem State.setRdata_draws : (s.setRdata w).draws = s.draws := rfl

@[simp] theorem State.setPorts_regs : (s.setPorts q).regs = s.regs := rfl
@[simp] theorem State.setPorts_ports : (s.setPorts q).ports = q := rfl
@[simp] theorem State.setPorts_rdata : (s.setPorts q).rdata = s.rdata := rfl
@[simp] theorem State.setPorts_hasReset : (s.setPorts q).hasReset = s.hasReset := rfl
@[simp] theorem State.setPorts_moves : (s.setPorts q).moves = s.moves := rfl
@[simp] theorem State.setPorts_draws : (s.setPorts q).draws = s.draws := rfl

@[simp] theorem State.setRegs_same : s.setRegs s.regs = s := rfl
@[simp] theorem State.setPorts_same : s.setPorts s.ports = s := rfl
@[simp] theorem State.setRegs_setRegs (r' : Regs) : (s.setRegs r).setRegs r' = s.setRegs r' := rfl

end StateUpdates

section RegisterUpdates

variable (r : Regs) (x : Sample) (c : CycleWord) (q : Ports)

@[simp] theorem publish_phase : (publish x c r).phase = r.phase := rfl
@[simp] theorem publish_cycle : (publish x c r).cycle = r.cycle := rfl
@[simp] theorem publish_fsm : (publish x c r).fsm = sHigh := rfl
@[simp] theorem publish_p : (publish x c r).p = 0#2 := rfl
@[simp] theorem publish_rem : (publish x c r).rem = BitVec.ofNat 2 x.on := rfl
@[simp] theorem publish_onLen : (publish x c r).onLen = BitVec.ofNat 2 x.on := rfl
@[simp] theorem publish_offLen : (publish x c r).offLen = BitVec.ofNat 2 x.off := rfl
@[simp] theorem publish_outQ : (publish x c r).outQ = true := rfl
@[simp] theorem publish_oeQ : (publish x c r).oeQ = r.oeQ := rfl
@[simp] theorem publish_cfgPinQ : (publish x c r).cfgPinQ = r.cfgPinQ := rfl
@[simp] theorem publish_cfgCarrierQ : (publish x c r).cfgCarrierQ = r.cfgCarrierQ := rfl
@[simp] theorem publish_cfgSineQ : (publish x c r).cfgSineQ = r.cfgSineQ := rfl
@[simp] theorem publish_stIndex : (publish x c r).stIndex = x.idx := rfl
@[simp] theorem publish_stValue : (publish x c r).stValue = BitVec.ofInt 16 x.val := rfl
@[simp] theorem publish_stDuty : (publish x c r).stDuty = BitVec.ofNat 12 x.dval := rfl
@[simp] theorem publish_stPeriod : (publish x c r).stPeriod = r.stPeriod := rfl
@[simp] theorem publish_stHighEnd : (publish x c r).stHighEnd = r.stHighEnd := rfl
@[simp] theorem publish_stPeriodEnd : (publish x c r).stPeriodEnd = r.stPeriodEnd := rfl
@[simp] theorem publish_stCycle : (publish x c r).stCycle = c := rfl

@[simp] theorem advance_phase : (advance r).phase = r.phase + 1#32 := rfl
@[simp] theorem advance_cycle : (advance r).cycle = r.cycle + 1#64 := rfl
@[simp] theorem advance_fsm : (advance r).fsm = r.fsm := rfl
@[simp] theorem advance_p : (advance r).p = r.p := rfl
@[simp] theorem advance_rem : (advance r).rem = r.rem := rfl
@[simp] theorem advance_onLen : (advance r).onLen = r.onLen := rfl
@[simp] theorem advance_offLen : (advance r).offLen = r.offLen := rfl
@[simp] theorem advance_outQ : (advance r).outQ = r.outQ := rfl
@[simp] theorem advance_oeQ : (advance r).oeQ = r.oeQ := rfl
@[simp] theorem advance_cfgPinQ : (advance r).cfgPinQ = r.cfgPinQ := rfl
@[simp] theorem advance_cfgCarrierQ : (advance r).cfgCarrierQ = r.cfgCarrierQ := rfl
@[simp] theorem advance_cfgSineQ : (advance r).cfgSineQ = r.cfgSineQ := rfl
@[simp] theorem advance_stIndex : (advance r).stIndex = r.stIndex := rfl
@[simp] theorem advance_stValue : (advance r).stValue = r.stValue := rfl
@[simp] theorem advance_stDuty : (advance r).stDuty = r.stDuty := rfl
@[simp] theorem advance_stPeriod : (advance r).stPeriod = r.stPeriod := rfl
@[simp] theorem advance_stHighEnd : (advance r).stHighEnd = r.stHighEnd := rfl
@[simp] theorem advance_stPeriodEnd : (advance r).stPeriodEnd = r.stPeriodEnd := rfl
@[simp] theorem advance_stCycle : (advance r).stCycle = r.stCycle := rfl

@[simp] theorem stopLow_phase : (stopLow r).phase = r.phase := rfl
@[simp] theorem stopLow_cycle : (stopLow r).cycle = r.cycle := rfl
@[simp] theorem stopLow_fsm : (stopLow r).fsm = sDone := rfl
@[simp] theorem stopLow_p : (stopLow r).p = r.p := rfl
@[simp] theorem stopLow_rem : (stopLow r).rem = r.rem := rfl
@[simp] theorem stopLow_onLen : (stopLow r).onLen = r.onLen := rfl
@[simp] theorem stopLow_offLen : (stopLow r).offLen = r.offLen := rfl
@[simp] theorem stopLow_outQ : (stopLow r).outQ = false := rfl
@[simp] theorem stopLow_oeQ : (stopLow r).oeQ = r.oeQ := rfl
@[simp] theorem stopLow_cfgPinQ : (stopLow r).cfgPinQ = r.cfgPinQ := rfl
@[simp] theorem stopLow_cfgCarrierQ : (stopLow r).cfgCarrierQ = r.cfgCarrierQ := rfl
@[simp] theorem stopLow_cfgSineQ : (stopLow r).cfgSineQ = r.cfgSineQ := rfl
@[simp] theorem stopLow_stIndex : (stopLow r).stIndex = r.stIndex := rfl
@[simp] theorem stopLow_stValue : (stopLow r).stValue = r.stValue := rfl
@[simp] theorem stopLow_stDuty : (stopLow r).stDuty = r.stDuty := rfl
@[simp] theorem stopLow_stPeriod : (stopLow r).stPeriod = r.stPeriod := rfl
@[simp] theorem stopLow_stHighEnd : (stopLow r).stHighEnd = r.stHighEnd := rfl
@[simp] theorem stopLow_stPeriodEnd : (stopLow r).stPeriodEnd = r.stPeriodEnd := rfl
@[simp] theorem stopLow_stCycle : (stopLow r).stCycle = r.stCycle := rfl

@[simp] theorem initRegs_phase : (initRegs q r).phase = r.phase := rfl
@[simp] theorem initRegs_cycle : (initRegs q r).cycle = r.cycle := rfl
@[simp] theorem initRegs_fsm : (initRegs q r).fsm = sArm := rfl
@[simp] theorem initRegs_p : (initRegs q r).p = r.p := rfl
@[simp] theorem initRegs_rem : (initRegs q r).rem = r.rem := rfl
@[simp] theorem initRegs_onLen : (initRegs q r).onLen = r.onLen := rfl
@[simp] theorem initRegs_offLen : (initRegs q r).offLen = r.offLen := rfl
@[simp] theorem initRegs_outQ : (initRegs q r).outQ = r.outQ := rfl
@[simp] theorem initRegs_oeQ : (initRegs q r).oeQ = true := rfl
@[simp] theorem initRegs_cfgPinQ : (initRegs q r).cfgPinQ = q.cfgPin := rfl
@[simp] theorem initRegs_cfgCarrierQ : (initRegs q r).cfgCarrierQ = q.cfgCarrierHz := rfl
@[simp] theorem initRegs_cfgSineQ : (initRegs q r).cfgSineQ = q.cfgSineHz := rfl
@[simp] theorem initRegs_stIndex : (initRegs q r).stIndex = r.stIndex := rfl
@[simp] theorem initRegs_stValue : (initRegs q r).stValue = r.stValue := rfl
@[simp] theorem initRegs_stDuty : (initRegs q r).stDuty = r.stDuty := rfl
@[simp] theorem initRegs_stPeriod : (initRegs q r).stPeriod = nominalPeriod := rfl
@[simp] theorem initRegs_stHighEnd : (initRegs q r).stHighEnd = r.stHighEnd := rfl
@[simp] theorem initRegs_stPeriodEnd : (initRegs q r).stPeriodEnd = r.stPeriodEnd := rfl
@[simp] theorem initRegs_stCycle : (initRegs q r).stCycle = r.stCycle := rfl

end RegisterUpdates

end Sys2Proof.Machine
end

