-- ==== Sys2Proof/Laws/Invariants.lean ====
section
/-! SUPPORT. What START_SAMPLE and the end of a high phase do to the invariants of 10_state.md R40. -/

namespace Sys2Proof.Machine

/-- START_SAMPLE leaves a legal state, whatever the sequencer held before (40_sample_pipeline.md R111). -/
theorem startSample_inv {r : Regs} (h4 : r.oeQ = true) (hp : r.stPeriod = nominalPeriod)
    (h7 : r.stHighEnd = 0#32 ∧ r.stPeriodEnd = 0#32) : (startSample r.phase r.cycle r).Inv := by
  have hb := patternPercent_le (romRead (sineIndexOf r.phase))
  have hon := onTime_clamp (patternPercent (romRead (sineIndexOf r.phase)))
  have hoff := offTime_clamp (patternPercent (romRead (sineIndexOf r.phase)))
  unfold startSample sampleAt
  refine ⟨?_, ?_, ?_, ?_, ?_, ?_, ?_, ?_, ?_, ?_, ?_⟩
  · simp
  · intro _
    rcases hon with hon | hon <;> rcases hoff with hoff | hoff <;> simp [hon, hoff]
  · intro _
    rcases hon with hon | hon <;> simp [hon]
  · intro h; simp at h
  · simp
  · simp [h4]
  · simp [hp]
  · intro h; simp at h
  · intro h; simp at h
  · intro _
    refine ⟨rfl, ?_, ?_, ?_, ?_, ?_⟩
    · simp
    · simp [publishedDuty_eq]; omega
    · rcases hon with hon | hon <;> simp [hon]
    · rcases hoff with hoff | hoff <;> simp [hoff]
    · simp
  · simpa using h7

/-- A legal high phase whose line is lowered, with one unit of the low phase left, is a legal low phase (R135). -/
theorem low_inv {r : Regs} (h : r.Inv) (hf : r.fsm = sHigh) :
    Regs.Inv { r with outQ := false, rem := 1#2, fsm := sLow } := by
  have h2 := h.i2 (.inl hf)
  have h6 := h.i6 (.inl hf)
  have h4 := h.i4
  have h4' := h.i4Period
  have h7 := h.i7
  constructor <;> simp_all
  rcases h2.2.1 with h | h <;> rw [h] <;> decide

/-- The pulses of a sample that have ended may be any of 0, 1 and 2, with `cycle` that many past `ST_CYCLE` (I6). -/
theorem pulse_inv {r : Regs} {n : BitVec 2} (h : r.Inv) (hf : r.fsm = sHigh ∨ r.fsm = sLow)
    (hn : n = 0#2 ∨ n = 1#2 ∨ n = 2#2) : Regs.Inv { r with p := n, cycle := r.stCycle + n.zeroExtend 64 } := by
  have h2 := h.i2 hf
  have h6 := h.i6 hf
  refine ⟨h.i1, fun _ => ⟨h2.1, h2.2.1, hn⟩, h.i2High, h.i2Low, h.i3, h.i4, h.i4Period, h.i4Zero, ?_, ?_, h.i7⟩
  · intro h'
    rcases hf with hf | hf <;> rcases h' with h' | h' <;> exact absurd (hf.symm.trans h') (by decide)
  · intro _
    exact ⟨h6.1, h6.2.1, h6.2.2.1, h6.2.2.2.1, h6.2.2.2.2.1, rfl⟩

end Sys2Proof.Machine
end

