-- ==== Sys2Proof/Laws/Ops.lean ====
section
/-! SUPPORT. What each shared operation can do, said once: `atEdge`, `sampleWord`, `countDown`, `endHigh`, `nextPulse`, and
exec as a whole. -/

namespace Sys2Proof.Machine

/-- An edge operation answers a next state exactly when a RESET has happened and its register function succeeds. -/
theorem atEdge_next_iff {s t : State} {op : Regs → Except Fault Regs} :
    atEdge s op = .next t ↔ s.hasReset = true ∧ ∃ r, op s.regs = .ok r ∧ t = s.setRegs r := by
  unfold atEdge raise
  cases s.hasReset <;> cases h : op s.regs <;> simp [eq_comm]

/-- An edge operation faults with `noReset` before the first RESET, and else with its register function's fault. -/
theorem atEdge_fault_iff {s : State} {op : Regs → Except Fault Regs} {f : Fault} :
    atEdge s op = .fault f ↔
      (s.hasReset = false ∧ f = .noReset) ∨ (s.hasReset = true ∧ op s.regs = .error f) := by
  unfold atEdge raise
  cases s.hasReset <;> cases h : op s.regs <;> simp [eq_comm]

/-- An edge operation is never refused. -/
theorem atEdge_ne_refused (s : State) (op : Regs → Except Fault Regs) (q : Refusal) : atEdge s op ≠ .refused q := by
  unfold atEdge raise
  cases s.hasReset <;> cases op s.regs <;> simp

/-- After a RESET, a register function that succeeds is the next state. -/
theorem atEdge_of_ok {s : State} {op : Regs → Except Fault Regs} {r : Regs} (hr : s.hasReset = true)
    (h : op s.regs = .ok r) : atEdge s op = .next (s.setRegs r) :=
  atEdge_next_iff.mpr ⟨hr, r, h, rfl⟩

/-- After a RESET, a register function that faults is the outcome. -/
theorem atEdge_of_error {s : State} {op : Regs → Except Fault Regs} {f : Fault} (hr : s.hasReset = true)
    (h : op s.regs = .error f) : atEdge s op = .fault f :=
  atEdge_fault_iff.mpr (.inr ⟨hr, h⟩)

/-- A sampled word is a next state that differs in `rdata` alone. -/
theorem sampleWord_next (s : State) (w : PortWord) : sampleWord s w = .next (s.setRdata w) := rfl

theorem legalLen_iff {v : BitVec 2} : legalLen v = true ↔ v = 1#2 ∨ v = 2#2 := by revert v; decide

theorem countDown_ok_iff {r r' : Regs} : countDown r = .ok r' ↔ r.rem = 2#2 ∧ r' = { r with rem := 1#2 } := by
  unfold countDown
  by_cases h : r.rem = 2#2
  · rw [if_pos h, h]
    exact ⟨fun e => ⟨rfl, (Except.ok.inj e).symm⟩, fun e => congrArg _ e.2.symm⟩
  · rw [if_neg h]
    exact ⟨fun e => (nomatch e), fun e => absurd e.1 h⟩

theorem countDown_error_iff {r : Regs} {f : Fault} :
    countDown r = .error f ↔ r.rem ≠ 2#2 ∧ f = .invariantFault (.rem r.rem) := by
  unfold countDown
  by_cases h : r.rem = 2#2
  · rw [if_pos h]
    exact ⟨fun e => (nomatch e), fun e => absurd h e.1⟩
  · rw [if_neg h]
    exact ⟨fun e => ⟨h, (Except.error.inj e).symm⟩, fun e => congrArg _ e.2.symm⟩

theorem endHigh_ok_iff {r r' : Regs} :
    endHigh r = .ok r' ↔
      (r.offLen = 1#2 ∨ r.offLen = 2#2) ∧ r' = { r with outQ := false, rem := r.offLen, fsm := sLow } := by
  unfold endHigh
  rw [← legalLen_iff]
  by_cases h : legalLen r.offLen = true
  · rw [if_pos h]
    exact ⟨fun e => ⟨h, (Except.ok.inj e).symm⟩, fun e => congrArg _ e.2.symm⟩
  · rw [if_neg h]
    exact ⟨fun e => (nomatch e), fun e => absurd e.1 h⟩

theorem endHigh_error_iff {r : Regs} {f : Fault} :
    endHigh r = .error f ↔ ¬(r.offLen = 1#2 ∨ r.offLen = 2#2) ∧ f = .invariantFault (.offLen r.offLen) := by
  unfold endHigh
  rw [← legalLen_iff]
  by_cases h : legalLen r.offLen = true
  · rw [if_pos h]
    exact ⟨fun e => (nomatch e), fun e => absurd h e.1⟩
  · rw [if_neg h]
    exact ⟨fun e => ⟨h, (Except.error.inj e).symm⟩, fun e => congrArg _ e.2.symm⟩

theorem nextPulse_ok_iff {r r' : Regs} :
    nextPulse r = .ok r' ↔
      (r.p = 0#2 ∨ r.p = 1#2) ∧ (r.onLen = 1#2 ∨ r.onLen = 2#2) ∧
        r' = { r with cycle := r.cycle + 1#64, p := r.p + 1#2, outQ := true, rem := r.onLen, fsm := sHigh } := by
  unfold nextPulse
  rw [← legalLen_iff]
  by_cases hp : r.p = 0#2 ∨ r.p = 1#2
  · by_cases h : legalLen r.onLen = true
    · rw [if_pos hp, if_pos h]
      exact ⟨fun e => ⟨hp, h, (Except.ok.inj e).symm⟩, fun e => congrArg _ e.2.2.symm⟩
    · rw [if_pos hp, if_neg h]
      exact ⟨fun e => (nomatch e), fun e => absurd e.2.1 h⟩
  · rw [if_neg hp]
    exact ⟨fun e => (nomatch e), fun e => absurd e.1 hp⟩

theorem nextPulse_error_iff {r : Regs} {f : Fault} :
    nextPulse r = .error f ↔
      (¬(r.p = 0#2 ∨ r.p = 1#2) ∧ f = .invariantFault (.p r.p)) ∨
      ((r.p = 0#2 ∨ r.p = 1#2) ∧ ¬(r.onLen = 1#2 ∨ r.onLen = 2#2) ∧ f = .invariantFault (.onLen r.onLen)) := by
  unfold nextPulse
  rw [← legalLen_iff]
  by_cases hp : r.p = 0#2 ∨ r.p = 1#2
  · by_cases h : legalLen r.onLen = true
    · rw [if_pos hp, if_pos h]
      exact ⟨fun e => (nomatch e), fun e => e.elim (fun q => absurd hp q.1) (fun q => absurd h q.2.1)⟩
    · rw [if_pos hp, if_neg h]
      exact ⟨fun e => .inr ⟨hp, h, (Except.error.inj e).symm⟩,
        fun e => e.elim (fun q => absurd hp q.1) (fun q => congrArg _ q.2.2.symm)⟩
  · rw [if_neg hp]
    exact ⟨fun e => .inl ⟨hp, (Except.error.inj e).symm⟩,
      fun e => e.elim (fun q => congrArg _ q.2.symm) (fun q => absurd q.1 hp)⟩

/-- The register function of an edge operation other than RESET (70 R201, 41 R131 to R140, 60 R182). -/
def edgeOp (i : Instr) (inputs : Ports) (r : Regs) : Except Fault Regs :=
  match i with
  | .init .. => .ok (initRegs inputs r)
  | .armStart .. => .ok (startSample r.phase r.cycle r)
  | .armStop .. => .ok (stopLow r)
  | .highCount .. | .lowCount .. => countDown r
  | .highEnd .. => endHigh r
  | .pulseNext .. => nextPulse r
  | .sampleNext => .ok (startSample (r.phase + 1#32) (r.cycle + 1#64) (advance r))
  | .sampleStop => .ok (stopLow (advance r))
  | .illegalState5 .. | .illegalState6 .. | .illegalState7 .. => illegalFsm r
  | .holdArm .. | .holdHigh .. | .holdLow .. | .doneHold .. => .ok r
  | .reset .. | .rdIndex | .rdValue | .rdDuty | .rdPeriod | .rdHighEnd | .rdPeriodEnd | .rdCycle | .rdRsvd => .ok r

/-- An operation is RESET, a read of one status word, or its register function run at an edge. -/
theorem exec_forms (i : Instr) (s : State) :
    ((∃ t st f e p, i = .reset t st f e p) ∧ exec i s = .next { s with regs := Regs.reset, hasReset := true }) ∨
    (i.format = .read ∧ ∃ w, exec i s = .next (s.setRdata w)) ∨
    (i.format = .fsm ∧ exec i s = atEdge s (edgeOp i s.ports)) := by
  cases i <;>
    first
    | exact .inl ⟨⟨_, _, _, _, _, rfl⟩, rfl⟩
    | exact .inr (.inl ⟨rfl, _, rfl⟩)
    | exact .inr (.inr ⟨rfl, rfl⟩)

/-- An edge operation completes when its register function succeeds; `he` is `rfl` for every concrete one. -/
theorem exec_next_of_ok {i : Instr} {s : State} {r : Regs} (he : exec i s = atEdge s (edgeOp i s.ports))
    (hr : s.hasReset = true) (ho : edgeOp i s.ports s.regs = .ok r) : exec i s = .next (s.setRegs r) :=
  he.trans (atEdge_of_ok hr ho)

/-- An edge operation stops with the fault of its register function. -/
theorem exec_fault_of_error {i : Instr} {s : State} {f : Fault} (he : exec i s = atEdge s (edgeOp i s.ports))
    (hr : s.hasReset = true) (ho : edgeOp i s.ports s.regs = .error f) : exec i s = .fault f :=
  he.trans (atEdge_of_error hr ho)

/-- When an edge operation completes, and in which state; `he` is `rfl` for every concrete one. -/
theorem exec_next_iff {i : Instr} {s t : State} (he : exec i s = atEdge s (edgeOp i s.ports)) :
    exec i s = .next t ↔ s.hasReset = true ∧ ∃ r, edgeOp i s.ports s.regs = .ok r ∧ t = s.setRegs r := by
  rw [he]; exact atEdge_next_iff

/-- When an edge operation faults, and with what. -/
theorem exec_fault_iff {i : Instr} {s : State} {f : Fault} (he : exec i s = atEdge s (edgeOp i s.ports)) :
    exec i s = .fault f ↔
      (s.hasReset = false ∧ f = .noReset) ∨ (s.hasReset = true ∧ edgeOp i s.ports s.regs = .error f) := by
  rw [he]; exact atEdge_fault_iff

/-- Everything exec can answer as a next state: RESET's, an edge operation's register writes, or a reader's sample. -/
theorem exec_next_cases {i : Instr} {s t : State} (h : exec i s = .next t) :
    ((∃ tk st f e p, i = .reset tk st f e p) ∧ t = { s with regs := Regs.reset, hasReset := true }) ∨
    (s.hasReset = true ∧ ∃ r, edgeOp i s.ports s.regs = .ok r ∧ t = s.setRegs r) ∨
    (i.format = .read ∧ ∃ w, t = s.setRdata w) := by
  rcases exec_forms i s with ⟨hi, e⟩ | ⟨hi, w, e⟩ | ⟨hi, e⟩
  · exact .inl ⟨hi, (Host.Outcome.next.inj (e.symm.trans h)).symm⟩
  · exact .inr (.inr ⟨hi, w, (Host.Outcome.next.inj (e.symm.trans h)).symm⟩)
  · obtain ⟨hr, r, ho, rfl⟩ := atEdge_next_iff.mp (e.symm.trans h)
    exact .inr (.inl ⟨hr, r, ho, rfl⟩)

/-- No operation touches the inputs, the moves still to come or the count of draws. -/
theorem exec_keeps_inputs {i : Instr} {s t : State} (h : exec i s = .next t) :
    t.ports = s.ports ∧ t.moves = s.moves ∧ t.draws = s.draws := by
  rcases exec_next_cases h with ⟨-, rfl⟩ | ⟨-, r, -, rfl⟩ | ⟨-, w, rfl⟩ <;> exact ⟨rfl, rfl, rfl⟩

/-- No operation reads the moves still to come. -/
theorem exec_with_moves {i : Instr} {s t : State} (ms : List Move) (h : exec i s = .next t) :
    exec i { s with moves := ms } = .next { t with moves := ms } := by
  cases i <;>
    first
    | (obtain ⟨hr, r, ho, rfl⟩ := (exec_next_iff rfl).mp h; exact exec_next_of_ok rfl hr ho)
    | (cases h; rfl)

end Sys2Proof.Machine
end

