-- ==== Sys2Proof/Laws/PerInstr.lean ====
section
/-! SUPPORT. Statements made per instruction. `InRow`: the word the encoder writes for an instruction is a word of its own
row of the opcode table (30_encoding.md R73, R77). -/

namespace Sys2Proof.Laws

/-- The encoded word matches the mask and match of the instruction's own row. -/
def InRow.Statement (i : Instr) : Prop := i.row.selects (encode i) = true

namespace InRow

theorem reset (t s : Bool) (f : FsmCode) (e p : Bool) : Statement (.reset t s f e p) := by
  unfold Statement; revert t s f e p; decide
theorem init (t s e p : Bool) : Statement (.init t s e p) := by unfold Statement; revert t s e p; decide
theorem holdArm (s e p : Bool) : Statement (.holdArm s e p) := by unfold Statement; revert s e p; decide
theorem armStart (e p : Bool) : Statement (.armStart e p) := by unfold Statement; revert e p; decide
theorem armStop (e p : Bool) : Statement (.armStop e p) := by unfold Statement; revert e p; decide
theorem holdHigh (s e p : Bool) : Statement (.holdHigh s e p) := by unfold Statement; revert s e p; decide
theorem highCount (s p : Bool) : Statement (.highCount s p) := by unfold Statement; revert s p; decide
theorem highEnd (s p : Bool) : Statement (.highEnd s p) := by unfold Statement; revert s p; decide
theorem holdLow (s e p : Bool) : Statement (.holdLow s e p) := by unfold Statement; revert s e p; decide
theorem lowCount (s p : Bool) : Statement (.lowCount s p) := by unfold Statement; revert s p; decide
theorem pulseNext (s : Bool) : Statement (.pulseNext s) := by unfold Statement; revert s; decide
theorem sampleNext : Statement .sampleNext := by unfold Statement; decide
theorem sampleStop : Statement .sampleStop := by unfold Statement; decide
theorem doneHold (t s e p : Bool) : Statement (.doneHold t s e p) := by unfold Statement; revert t s e p; decide
theorem illegalState5 (t s e p : Bool) : Statement (.illegalState5 t s e p) := by
  unfold Statement; revert t s e p; decide
theorem illegalState6 (t s e p : Bool) : Statement (.illegalState6 t s e p) := by
  unfold Statement; revert t s e p; decide
theorem illegalState7 (t s e p : Bool) : Statement (.illegalState7 t s e p) := by
  unfold Statement; revert t s e p; decide
theorem rdIndex : Statement .rdIndex := by unfold Statement; decide
theorem rdValue : Statement .rdValue := by unfold Statement; decide
theorem rdDuty : Statement .rdDuty := by unfold Statement; decide
theorem rdPeriod : Statement .rdPeriod := by unfold Statement; decide
theorem rdHighEnd : Statement .rdHighEnd := by unfold Statement; decide
theorem rdPeriodEnd : Statement .rdPeriodEnd := by unfold Statement; decide
theorem rdCycle : Statement .rdCycle := by unfold Statement; decide
theorem rdRsvd : Statement .rdRsvd := by unfold Statement; decide

end InRow

end Sys2Proof.Laws
end

