-- ==== Sys2Proof/Laws/Step.lean ====
section
/-! SUPPORT. What a step can do, and runs of listed moves: `playMoves` performs one move and then the rest. -/

namespace Sys2Proof.Machine

theorem fetch_cons {s : State} {m : Move} {ms : List Move} (h : s.moves = m :: ms) :
    fetch s = selectFrom m { s with moves := ms } := by
  simp [fetch, nextMove, h]

theorem fetch_nil {s : State} (h : s.moves = []) :
    fetch s = selectFrom (Config.freeMove s.draws) { s with draws := s.draws + 1 } := by
  simp [fetch, nextMove, h]

/-- The state an operation finds when move `m` has been taken from the list and driven. -/
def State.driven (s : State) (m : Move) (ms : List Move) : State :=
  { s with ports := drive m s.ports, moves := ms }

/-- Everything a step can do once its move is known: an operation performed in the driven state, or the driven state. -/
theorem step_cons {s : State} {m : Move} {ms : List Move} (h : s.moves = m :: ms) :
    step s =
      match selectOp m (s.driven m ms) with
      | some i => exec i (s.driven m ms)
      | none => .next (s.driven m ms) := by
  unfold step
  rw [fetch_cons h]
  cases m <;> rfl

theorem remIsOne_iff {r : Regs} : remIsOne r = true ↔ r.rem = 1#2 := beq_iff_eq

theorem pIsTwo_iff {r : Regs} : pIsTwo r = true ↔ r.p = 2#2 := beq_iff_eq

/-- What an edge with `rst` = 0 can do when it completes: the rows of 41_pwm_sequencer.md R146 with their register writes. -/
theorem edge_next_cases {s t : State} (hrst : s.ports.rst = false)
    (h : exec (decodeEdge (decodeWordOf s)) s = .next t) :
    s.hasReset = true ∧
    ((s.regs.fsm = sInit ∧ t = s.setRegs (initRegs s.ports s.regs)) ∨
     (s.regs.fsm ≠ sInit ∧ (s.ports.tick = false ∨ s.regs.fsm = sDone) ∧ t = s) ∨
     (s.regs.fsm = sArm ∧ s.ports.tick = true ∧ s.ports.stop = false ∧
       t = s.setRegs (startSample s.regs.phase s.regs.cycle s.regs)) ∨
     (s.regs.fsm = sArm ∧ s.ports.tick = true ∧ s.ports.stop = true ∧ t = s.setRegs (stopLow s.regs)) ∨
     ((s.regs.fsm = sHigh ∨ s.regs.fsm = sLow) ∧ s.ports.tick = true ∧ s.regs.rem = 2#2 ∧
       t = s.setRegs { s.regs with rem := 1#2 }) ∨
     (s.regs.fsm = sHigh ∧ s.ports.tick = true ∧ s.regs.rem = 1#2 ∧ (s.regs.offLen = 1#2 ∨ s.regs.offLen = 2#2) ∧
       t = s.setRegs { s.regs with outQ := false, rem := s.regs.offLen, fsm := sLow }) ∨
     (s.regs.fsm = sLow ∧ s.ports.tick = true ∧ s.regs.rem = 1#2 ∧ (s.regs.p = 0#2 ∨ s.regs.p = 1#2) ∧
       (s.regs.onLen = 1#2 ∨ s.regs.onLen = 2#2) ∧
       t = s.setRegs { s.regs with
         cycle := s.regs.cycle + 1#64, p := s.regs.p + 1#2, outQ := true, rem := s.regs.onLen, fsm := sHigh }) ∨
     (s.regs.fsm = sLow ∧ s.ports.tick = true ∧ s.regs.rem = 1#2 ∧ s.regs.p = 2#2 ∧ s.ports.stop = false ∧
       t = s.setRegs (startSample (s.regs.phase + 1#32) (s.regs.cycle + 1#64) (advance s.regs))) ∨
     (s.regs.fsm = sLow ∧ s.ports.tick = true ∧ s.regs.rem = 1#2 ∧ s.regs.p = 2#2 ∧ s.ports.stop = true ∧
       t = s.setRegs (stopLow (advance s.regs)))) := by
  unfold decodeWordOf at h
  rw [hrst] at h
  have bf : ∀ {b : Bool}, ¬b = true → b = false := fun hb => by simpa using hb
  rcases fsmCode_cases s.regs.fsm with hf | hf | hf | hf | hf | hf | hf | hf <;> rw [hf] at h
  · rw [decodeEdge_init] at h
    obtain ⟨hr, r, ho, rfl⟩ := (exec_next_iff rfl).mp h
    cases ho
    exact ⟨hr, .inl ⟨hf, rfl⟩⟩
  · by_cases ht : s.ports.tick = true
    · rw [ht, decodeEdge_arm_tick] at h
      by_cases hst : s.ports.stop = true
      · rw [if_pos hst] at h
        obtain ⟨hr, r, ho, rfl⟩ := (exec_next_iff rfl).mp h
        cases ho
        exact ⟨hr, .inr (.inr (.inr (.inl ⟨hf, ht, hst, rfl⟩)))⟩
      · rw [if_neg hst] at h
        obtain ⟨hr, r, ho, rfl⟩ := (exec_next_iff rfl).mp h
        cases ho
        exact ⟨hr, .inr (.inr (.inl ⟨hf, ht, bf hst, rfl⟩))⟩
    · rw [bf ht, decodeEdge_arm_idle] at h
      obtain ⟨hr, r, ho, rfl⟩ := (exec_next_iff rfl).mp h
      cases ho
      exact ⟨hr, .inr (.inl ⟨by rw [hf]; decide, .inl (bf ht), rfl⟩)⟩
  · by_cases ht : s.ports.tick = true
    · rw [ht, decodeEdge_high_tick] at h
      by_cases he : s.regs.rem = 1#2
      · rw [if_pos (remIsOne_iff.mpr he)] at h
        obtain ⟨hr, r, ho, rfl⟩ := (exec_next_iff rfl).mp h
        obtain ⟨hl, rfl⟩ := endHigh_ok_iff.mp ho
        exact ⟨hr, .inr (.inr (.inr (.inr (.inr (.inl ⟨hf, ht, he, hl, rfl⟩)))))⟩
      · rw [if_neg (mt remIsOne_iff.mp he)] at h
        obtain ⟨hr, r, ho, rfl⟩ := (exec_next_iff rfl).mp h
        obtain ⟨hl, rfl⟩ := countDown_ok_iff.mp ho
        exact ⟨hr, .inr (.inr (.inr (.inr (.inl ⟨.inl hf, ht, hl, rfl⟩))))⟩
    · rw [bf ht, decodeEdge_high_idle] at h
      obtain ⟨hr, r, ho, rfl⟩ := (exec_next_iff rfl).mp h
      cases ho
      exact ⟨hr, .inr (.inl ⟨by rw [hf]; decide, .inl (bf ht), rfl⟩)⟩
  · by_cases ht : s.ports.tick = true
    · rw [ht, decodeEdge_low_tick] at h
      by_cases he : s.regs.rem = 1#2
      · rw [if_pos (remIsOne_iff.mpr he)] at h
        by_cases hp : s.regs.p = 2#2
        · rw [if_pos (pIsTwo_iff.mpr hp)] at h
          by_cases hst : s.ports.stop = true
          · rw [if_pos hst] at h
            obtain ⟨hr, r, ho, rfl⟩ := (exec_next_iff rfl).mp h
            cases ho
            exact ⟨hr, .inr (.inr (.inr (.inr (.inr (.inr (.inr (.inr ⟨hf, ht, he, hp, hst, rfl⟩)))))))⟩
          · rw [if_neg hst] at h
            obtain ⟨hr, r, ho, rfl⟩ := (exec_next_iff rfl).mp h
            cases ho
            exact ⟨hr, .inr (.inr (.inr (.inr (.inr (.inr (.inr (.inl ⟨hf, ht, he, hp, bf hst, rfl⟩)))))))⟩
        · rw [if_neg (mt pIsTwo_iff.mp hp)] at h
          obtain ⟨hr, r, ho, rfl⟩ := (exec_next_iff rfl).mp h
          obtain ⟨hl, hl', rfl⟩ := nextPulse_ok_iff.mp ho
          exact ⟨hr, .inr (.inr (.inr (.inr (.inr (.inr (.inl ⟨hf, ht, he, hl, hl', rfl⟩))))))⟩
      · rw [if_neg (mt remIsOne_iff.mp he)] at h
        obtain ⟨hr, r, ho, rfl⟩ := (exec_next_iff rfl).mp h
        obtain ⟨hl, rfl⟩ := countDown_ok_iff.mp ho
        exact ⟨hr, .inr (.inr (.inr (.inr (.inl ⟨.inr hf, ht, hl, rfl⟩))))⟩
    · rw [bf ht, decodeEdge_low_idle] at h
      obtain ⟨hr, r, ho, rfl⟩ := (exec_next_iff rfl).mp h
      cases ho
      exact ⟨hr, .inr (.inl ⟨by rw [hf]; decide, .inl (bf ht), rfl⟩)⟩
  · rw [decodeEdge_done] at h
    obtain ⟨hr, r, ho, rfl⟩ := (exec_next_iff rfl).mp h
    cases ho
    exact ⟨hr, .inr (.inl ⟨by rw [hf]; decide, .inr hf, rfl⟩)⟩
  · rw [decodeEdge_illegal5] at h
    obtain ⟨-, r, ho, -⟩ := (exec_next_iff rfl).mp h
    cases ho
  · rw [decodeEdge_illegal6] at h
    obtain ⟨-, r, ho, -⟩ := (exec_next_iff rfl).mp h
    cases ho
  · rw [decodeEdge_illegal7] at h
    obtain ⟨-, r, ho, -⟩ := (exec_next_iff rfl).mp h
    cases ho

/-- The moves after a step from a list are the rest of the list. -/
theorem step_cons_moves {s t : State} {m : Move} {ms : List Move} (h : s.moves = m :: ms) (ht : step s = .next t) :
    t.moves = ms := by
  rw [step_cons h] at ht
  split at ht
  · exact (exec_keeps_inputs ht).2.1
  · cases ht; rfl

@[simp] theorem playMoves_nil (s : State) : playMoves [] s = .next { s with moves := [] } := rfl

/-- Performing a list of moves is performing the first and then the rest. -/
theorem playMoves_cons (m : Move) (ms : List Move) (s : State) :
    playMoves (m :: ms) s =
      match step { s with moves := m :: ms } with
      | .next t => playMoves ms t
      | .fault f => .fault f
      | .refused q => .refused q := by
  have h0 : playMoves (m :: ms) s = Host.Core.run Sys2Proof.core (ms.length + 1) { s with moves := m :: ms } := rfl
  have h1 : ∀ (k : Nat) (s : State), Host.Core.run Sys2Proof.core (k + 1) s =
      match step s with
      | .next t => Host.Core.run Sys2Proof.core k t
      | .fault f => .fault f
      | .refused q => .refused q := fun k s => by
    cases h : step s <;> simp only [Host.Core.run] <;> rw [show Sys2Proof.core.step s = step s from rfl, h]
  rw [h0, h1]
  cases h : step { s with moves := m :: ms } with
  | next t =>
    have hm : t.moves = ms := step_cons_moves rfl h
    subst hm
    rfl
  | fault f => rfl
  | refused q => rfl

theorem playMoves_cons_next {m : Move} {ms : List Move} {s t : State} (h : playMoves (m :: ms) s = .next t) :
    ∃ u, step { s with moves := m :: ms } = .next u ∧ playMoves ms u = .next t := by
  rw [playMoves_cons] at h
  split at h
  · exact ⟨_, ‹_›, h⟩
  · cases h
  · cases h

/-- What follows a move in the list does not change what the move does. -/
theorem step_with_tail {m : Move} {ms : List Move} {s t : State} (ms' : List Move)
    (h : step { s with moves := m :: ms } = .next t) :
    step { s with moves := m :: ms' } = .next { t with moves := ms' } := by
  rw [step_cons rfl] at h ⊢
  cases m with
  | edge a b c => exact exec_with_moves ms' h
  | cfg a b c => cases h; rfl
  | read a => exact exec_with_moves ms' h

/-- A list of moves may be performed in two parts. -/
theorem playMoves_append {ms ms' : List Move} {s u : State} (h : playMoves ms s = .next u) :
    playMoves (ms ++ ms') s = playMoves ms' u := by
  induction ms generalizing s with
  | nil => cases h; rfl
  | cons m ms ih =>
    obtain ⟨v, hv, hrest⟩ := playMoves_cons_next h
    rw [List.cons_append, playMoves_cons, step_with_tail (ms ++ ms') hv]
    exact ih hrest

/-- A property that every step over a listed move keeps holds after the whole list. -/
theorem playMoves_induction {P : State → Prop} {ms : List Move}
    (hstep : ∀ m ∈ ms, ∀ (rest : List Move) (s t : State), P s → step { s with moves := m :: rest } = .next t → P t)
    (hmoves : ∀ s : State, P s → P { s with moves := [] })
    {s t : State} (hs : P s) (h : playMoves ms s = .next t) : P t := by
  induction ms generalizing s with
  | nil => cases h; exact hmoves s hs
  | cons m ms ih =>
    obtain ⟨u, hu, hrest⟩ := playMoves_cons_next h
    exact ih (fun m' hm' => hstep m' (List.mem_cons_of_mem _ hm')) (hstep m List.mem_cons_self ms s u hs hu) hrest

end Sys2Proof.Machine
end

