-- ==== Sys2Proof/Tests/Slice0.lean ====
section
/-! SUPPORT. The model's own tests: the expected results are those of 95_test_vectors.md or worked out by hand from the
rule named; and the witnesses, which show for every statement with hypotheses a case that meets them. -/

namespace Sys2Proof.Tests

open Sys2Proof.Machine Sys2Proof.Claims

/-! ## Helpers -/

/-- A state after reset with the registers `r`, about to make the move `m`. -/
def about (r : Regs) (m : Move) : State := { State.reset with regs := r, moves := [m] }

/-- The registers of a next state. -/
def regsOf : Result → Option Regs
  | .next s => some s.regs
  | .fault _ => none
  | .refused _ => none

/-- The word the reader sampled in a next state. -/
def rdataOf : Result → Option PortWord
  | .next s => some s.rdata
  | .fault _ => none
  | .refused _ => none

/-- The fault a step stops with. -/
def faultOf : Result → Option Fault
  | .next _ => none
  | .fault f => some f
  | .refused _ => none

/-- What an edge does to the registers `r`. -/
def onEdge (r : Regs) (rst tick stop : Bool) : Result := step (about r (.edge rst tick stop))

/-- The registers after BOOT with the default period of 4000 (95_test_vectors.md section 2). -/
def bootRegs : Regs := { Regs.reset with oeQ := true, stPeriod := 4000#32, fsm := sArm }

/-- Registers of the vectors V-HH1 and V-HC1. -/
def highRegs : Regs := { bootRegs with fsm := sHigh, rem := 2#2, onLen := 2#2, offLen := 1#2, outQ := true }

/-- Registers of the vectors V-SN1 and V-HL1. -/
def lastLowRegs : Regs :=
  { bootRegs with
    fsm := sLow, rem := 1#2, p := 2#2, onLen := 1#2, offLen := 1#2, cycle := 767#64, phase := 255#32, stCycle := 765#64,
    stDuty := 2000#12 }

/-! ## Well-formedness of raw bits (30_encoding.md R70) -/

theorem test_raw_words_of_both_formats :
    (RawWord.mk 8 0xFF).wellFormed = true ∧ (RawWord.mk 8 0).wellFormed = true ∧
    (RawWord.mk 3 7).wellFormed = true ∧ (RawWord.mk 3 0).wellFormed = true := by decide

/-- Ill-formed terms of the length check. -/
theorem test_wrong_length_is_refused :
    (RawWord.mk 5 0).wellFormed = false ∧ (RawWord.mk 0 0).wellFormed = false ∧ (RawWord.mk 16 0x44).wellFormed = false ∧
    decodeRaw ⟨5, 0⟩ = .error (.noSuchFormat 5) ∧ decodeTableWord 16 0x44 = none := by decide

/-- Ill-formed terms of the range check. -/
theorem test_too_wide_value_is_refused :
    (RawWord.mk 8 0x100).wellFormed = false ∧ (RawWord.mk 3 8).wellFormed = false ∧
    decodeRaw ⟨8, 0x100⟩ = .error (.tooWide 8 0x100) ∧ decodeTableWord 3 8 = none := by decide

/-! ## Decoding: words of 95_test_vectors.md section 2.3, and R76 and R77 -/

theorem test_decode_reset :
    decodeRaw ⟨8, 0b10010011⟩ = .ok (.reset false false 4#3 true true) ∧
    decodeRaw ⟨8, 0b11101000⟩ = .ok (.reset true true 2#3 false false) := by decide
theorem test_decode_init :
    decodeRaw ⟨8, 0b00000000⟩ = .ok (.init false false false false) ∧
    decodeRaw ⟨8, 0b01100000⟩ = .ok (.init true true false false) := by decide
theorem test_decode_holdArm : decodeRaw ⟨8, 0b00100100⟩ = .ok (.holdArm true false false) := by decide
theorem test_decode_armStart : decodeRaw ⟨8, 0b01000100⟩ = .ok (.armStart false false) := by decide
theorem test_decode_armStop : decodeRaw ⟨8, 0b01100100⟩ = .ok (.armStop false false) := by decide
theorem test_decode_holdHigh : decodeRaw ⟨8, 0b00001011⟩ = .ok (.holdHigh false true true) := by decide
theorem test_decode_highCount : decodeRaw ⟨8, 0b01101000⟩ = .ok (.highCount true false) := by decide
theorem test_decode_highEnd : decodeRaw ⟨8, 0b01001011⟩ = .ok (.highEnd false true) := by decide
theorem test_decode_holdLow : decodeRaw ⟨8, 0b00101111⟩ = .ok (.holdLow true true true) := by decide
theorem test_decode_lowCount : decodeRaw ⟨8, 0b01001100⟩ = .ok (.lowCount false false) := by decide
theorem test_decode_pulseNext : decodeRaw ⟨8, 0b01101110⟩ = .ok (.pulseNext true) := by decide
theorem test_decode_sampleNext : decodeRaw ⟨8, 0b01001111⟩ = .ok .sampleNext := by decide
theorem test_decode_sampleStop : decodeRaw ⟨8, 0b01101111⟩ = .ok .sampleStop := by decide
theorem test_decode_doneHold : decodeRaw ⟨8, 0b01010011⟩ = .ok (.doneHold true false true true) := by decide
theorem test_decode_illegalState5 : decodeRaw ⟨8, 0b00010100⟩ = .ok (.illegalState5 false false false false) := by decide
theorem test_decode_illegalState6 : decodeRaw ⟨8, 0b00111001⟩ = .ok (.illegalState6 false true false true) := by decide
theorem test_decode_illegalState7 : decodeRaw ⟨8, 0b01011111⟩ = .ok (.illegalState7 true false true true) := by decide
theorem test_decode_reads :
    decodeRaw ⟨3, 0b000⟩ = .ok .rdIndex ∧ decodeRaw ⟨3, 0b001⟩ = .ok .rdValue ∧ decodeRaw ⟨3, 0b010⟩ = .ok .rdDuty ∧
    decodeRaw ⟨3, 0b011⟩ = .ok .rdPeriod ∧ decodeRaw ⟨3, 0b100⟩ = .ok .rdHighEnd ∧
    decodeRaw ⟨3, 0b101⟩ = .ok .rdPeriodEnd ∧ decodeRaw ⟨3, 0b110⟩ = .ok .rdCycle ∧
    decodeRaw ⟨3, 0b111⟩ = .ok .rdRsvd := by decide

/-- The decode word formed at the edge of 95_test_vectors.md section 2.3's row `0 1 1 | S_HIGH | 2 | 1`. -/
theorem test_decode_word_of_an_edge :
    decodeWordOf { State.reset with
      regs := { highRegs with p := 1#2 }, ports := { State.reset.ports with tick := true, stop := true } } = 0x68#8 := by
  decide

/-! ## One step of each operation: the vectors of 95_test_vectors.md section 2.4 -/

/-- V-RS1. -/
theorem test_reset_V_RS1 :
    regsOf (onEdge { bootRegs with
        fsm := sLow, rem := 2#2, p := 1#2, cycle := 10#64, phase := 3#32, stCycle := 9#64, stDuty := 2000#12 }
      true true true) = some Regs.reset := by decide

/-- RESET is performed before the first reset too, and ends the `NoReset` condition (70_reset_and_hazards.md R200). -/
theorem test_reset_clears_noReset :
    step { about highRegs (.edge true false false) with hasReset := false } =
      .next { State.reset with ports := { State.reset.ports with rst := true } } := by rfl

/-- V-IN1; the period is the parameter's. -/
theorem test_init_V_IN1 :
    onEdge Regs.reset false true true = .next { about bootRegs (.read 0#3) with
      moves := [], regs := { bootRegs with stPeriod := nominalPeriod },
      ports := { State.reset.ports with tick := true, stop := true } } := by rfl

/-- V-IN1: the configuration levels are latched. -/
theorem test_init_latches_V_IN1 :
    (regsOf (step { about Regs.reset (.edge false true true) with
      ports := { State.reset.ports with cfgPin := 13#32, cfgCarrierHz := 1000#32, cfgSineHz := 5#32 } })).map
        (fun r => (r.fsm, r.oeQ, r.cfgPinQ, r.cfgCarrierQ, r.cfgSineQ)) =
      some (sArm, true, 13#32, 1000#32, 5#32) := by decide

/-- V-HA1. -/
theorem test_holdArm_V_HA1 : regsOf (onEdge bootRegs false false true) = some bootRegs := by decide

/-- V-AS1, over REF_ROM. -/
theorem test_armStart_V_AS1 :
    publish (sampleWith refRom bootRegs.phase) bootRegs.cycle bootRegs =
      { bootRegs with
        fsm := sHigh, outQ := true, rem := 1#2, onLen := 1#2, offLen := 1#2, stDuty := 2000#12 } := by decide

/-- V-AS1, the registers that do not depend on the table. -/
theorem test_armStart_begins_a_pulse :
    (regsOf (onEdge bootRegs false true false)).map (fun r => (r.fsm, r.outQ, r.p, r.stIndex, r.stCycle, r.phase)) =
      some (sHigh, true, 0#2, 0#11, 0#64, 0#32) := by decide

/-- V-AP1. -/
theorem test_armStop_V_AP1 :
    regsOf (onEdge bootRegs false true true) = some { bootRegs with fsm := sDone } := by decide

/-- V-HH1. -/
theorem test_holdHigh_V_HH1 : regsOf (onEdge highRegs false false false) = some highRegs := by decide

/-- V-HC1. -/
theorem test_highCount_V_HC1 :
    regsOf (onEdge highRegs false true true) = some { highRegs with rem := 1#2 } := by decide

/-- V-IF1. -/
theorem test_highCount_V_IF1 :
    faultOf (onEdge { highRegs with rem := 3#2 } false true false) = some (.invariantFault (.rem 3#2)) := by decide

/-- V-HE1. -/
theorem test_highEnd_V_HE1 :
    regsOf (onEdge { highRegs with rem := 1#2, onLen := 1#2, offLen := 2#2 } false true false) =
      some { highRegs with rem := 2#2, onLen := 1#2, offLen := 2#2, outQ := false, fsm := sLow } := by decide

/-- R135's fault, at the other illegal length. -/
theorem test_highEnd_faults :
    faultOf (onEdge { highRegs with rem := 1#2, offLen := 0#2 } false true false) =
      some (.invariantFault (.offLen 0#2)) := by decide

/-- V-HL1. -/
theorem test_holdLow_V_HL1 : regsOf (onEdge lastLowRegs false false true) = some lastLowRegs := by decide

/-- V-LC1. -/
theorem test_lowCount_V_LC1 :
    regsOf (onEdge { lastLowRegs with rem := 2#2, p := 1#2, offLen := 2#2, cycle := 4#64 } false true false) =
      some { lastLowRegs with rem := 1#2, p := 1#2, offLen := 2#2, cycle := 4#64 } := by decide

/-- R136's fault. -/
theorem test_lowCount_faults :
    faultOf (onEdge { lastLowRegs with rem := 0#2 } false true false) = some (.invariantFault (.rem 0#2)) := by decide

/-- V-PN1. -/
theorem test_pulseNext_V_PN1 :
    regsOf (onEdge { lastLowRegs with p := 1#2, onLen := 2#2, cycle := 4#64 } false true true) =
      some { lastLowRegs with p := 2#2, onLen := 2#2, cycle := 5#64, fsm := sHigh, outQ := true, rem := 2#2 } := by decide

/-- R137: of two failing registers the one tested first is recorded. -/
theorem test_pulseNext_faults :
    faultOf (onEdge { lastLowRegs with p := 3#2, onLen := 0#2 } false true false) = some (.invariantFault (.p 3#2)) ∧
    faultOf (onEdge { lastLowRegs with p := 0#2, onLen := 0#2 } false true false) =
      some (.invariantFault (.onLen 0#2)) := by decide

/-- V-SN1, over REF_ROM. -/
theorem test_sampleNext_V_SN1 :
    publish (sampleWith refRom (advance lastLowRegs).phase) (advance lastLowRegs).cycle (advance lastLowRegs) =
      { lastLowRegs with
        fsm := sHigh, phase := 256#32, cycle := 768#64, p := 0#2, outQ := true, stIndex := 1#11, stValue := 0x0065#16,
        stDuty := 2000#12, stCycle := 768#64 } := by decide

/-- V-SN2 and V-SN3: the phase and the count wrap, and the count published is the wrapped one. -/
theorem test_sampleNext_wraps :
    (regsOf (onEdge { lastLowRegs with phase := 0xFFFFFFFF#32, cycle := 12884901887#64 } false true false)).map
        (fun r => (r.phase, r.cycle, r.stIndex, r.stCycle)) = some (0#32, 12884901888#64, 0#11, 12884901888#64) ∧
    (regsOf (onEdge { lastLowRegs with phase := 0x100#32, cycle := 0xFFFFFFFFFFFFFFFF#64 } false true false)).map
        (fun r => (r.phase, r.cycle, r.stIndex, r.stCycle)) = some (0x101#32, 0#64, 1#11, 0#64) := by decide

/-- V-SS1. -/
theorem test_sampleStop_V_SS1 :
    regsOf (onEdge { lastLowRegs with cycle := 5#64, phase := 0#32, stCycle := 3#64 } false true true) =
      some { lastLowRegs with cycle := 6#64, phase := 1#32, stCycle := 3#64, fsm := sDone } := by decide

/-- V-DH1. -/
theorem test_doneHold_V_DH1 :
    regsOf (onEdge { bootRegs with fsm := sDone } false true true) = some { bootRegs with fsm := sDone } := by decide

/-- V-IL1, and the other two codes. -/
theorem test_illegalState_V_IL1 :
    faultOf (onEdge { bootRegs with fsm := 5#3 } false false true) = some (.illegalState 5#3) ∧
    faultOf (onEdge { bootRegs with fsm := 6#3 } false true false) = some (.illegalState 6#3) ∧
    faultOf (onEdge { bootRegs with fsm := 7#3 } false true true) = some (.illegalState 7#3) := by decide

/-- 60_exceptions.md R181: any edge but a reset before the first reset. -/
theorem test_noReset :
    faultOf (step { about bootRegs (.edge false true false) with hasReset := false }) = some .noReset := by decide

/-- A CFG move is no edge: it changes the input levels alone (30_encoding.md R83). -/
theorem test_cfg_is_no_edge :
    step (about highRegs (.cfg 13#32 1000#32 5#32)) =
      .next { about highRegs (.read 0#3) with
        moves := [],
        ports := { State.reset.ports with cfgPin := 13#32, cfgCarrierHz := 1000#32, cfgSineHz := 5#32 } } := by rfl

/-- EXPECT names the input ports of 10_state.md R36 too (30_encoding.md R83). -/
theorem test_expect_names_input_ports :
    State.Expects { about highRegs (.read 0#3) with ports := ⟨true, false, true, 13#32, 1000#32, 5#32, 6#3⟩ } .cfgPin 13#64 ∧
    State.Expects { about highRegs (.read 0#3) with ports := ⟨true, false, true, 13#32, 1000#32, 5#32, 6#3⟩ } .stAddr 6#64 ∧
    State.Expects { about highRegs (.read 0#3) with ports := ⟨true, false, true, 13#32, 1000#32, 5#32, 6#3⟩ } .stop 1#64 := by
  unfold State.Expects
  decide

/-! ## Status-port reads: 95_test_vectors.md section 2.5 -/

theorem test_rdIndex :
    rdataOf (step (about { bootRegs with stIndex := 2047#11 } (.read 0#3))) = some 0x00000000000007FF#64 := by decide
theorem test_rdValue :
    rdataOf (step (about { bootRegs with stValue := 0xFF9B#16 } (.read 1#3))) = some 0xFFFFFFFFFFFFFF9B#64 ∧
    rdataOf (step (about { bootRegs with stValue := 0x7FFF#16 } (.read 1#3))) = some 0x0000000000007FFF#64 := by decide
theorem test_rdDuty :
    rdataOf (step (about { bootRegs with stDuty := 3960#12 } (.read 2#3))) = some 0x0000000000000F78#64 := by decide
theorem test_rdPeriod : rdataOf (step (about bootRegs (.read 3#3))) = some 0x0000000000000FA0#64 := by decide
theorem test_rdHighEnd :
    rdataOf (step (about { bootRegs with stHighEnd := 0x80000000#32 } (.read 4#3))) = some 0x80000000#64 := by decide
theorem test_rdPeriodEnd :
    rdataOf (step (about { bootRegs with stPeriodEnd := 0x80000001#32 } (.read 5#3))) = some 0x80000001#64 := by decide
theorem test_rdCycle :
    rdataOf (step (about { bootRegs with stCycle := 0xFFFFFFFFFFFFFFFD#64 } (.read 6#3))) =
      some 0xFFFFFFFFFFFFFFFD#64 := by decide
theorem test_rdRsvd :
    rdataOf (step { about highRegs (.read 7#3) with rdata := 5#64 }) = some 0#64 := by decide

/-- T6: a read changes no register. -/
theorem test_read_changes_no_register :
    regsOf (step (about lastLowRegs (.read 1#3))) = some lastLowRegs := by decide

/-! ## The sample pipeline: 95_test_vectors.md sections 2.1, 2.2 and 4 -/

set_option maxRecDepth 20000 in
theorem test_sample_section_2_1 :
    sampleWith refRom 0x12345678#32 = ⟨1110#11, -8545, 24223, 36, 1440, 36, 1, 1⟩ ∧
    sampleWith refRom 0xDEADBEEF#32 = ⟨1470#11, -32098, 670, 1, 40, 20, 1, 2⟩ ∧
    sampleWith refRom 0x0007FFFF#32 = ⟨2047#11, -101, 32667, 49, 1960, 49, 1, 1⟩ := by decide

/-- Rows of section 2.2 at the class edges, the clamp edges and the ends of the table. -/
theorem test_sample_section_2_2 :
    sampleWith (fun _ => 0x8000#16) 0#32 = ⟨0#11, -32768, 0, 0, 0, 20, 1, 2⟩ ∧
    sampleWith (fun _ => 0xB333#16) 0#32 = ⟨0#11, -19661, 13107, 19, 760, 20, 1, 2⟩ ∧
    sampleWith (fun _ => 0xD70A#16) 0#32 = ⟨0#11, -10486, 22282, 33, 1320, 33, 1, 2⟩ ∧
    sampleWith (fun _ => 0xD70B#16) 0#32 = ⟨0#11, -10485, 22283, 34, 1360, 34, 1, 1⟩ ∧
    sampleWith (fun _ => 0x2B85#16) 0#32 = ⟨0#11, 11141, 43909, 66, 2640, 66, 1, 1⟩ ∧
    sampleWith (fun _ => 0x2B86#16) 0#32 = ⟨0#11, 11142, 43910, 67, 2680, 67, 2, 1⟩ ∧
    sampleWith (fun _ => 0x4CCD#16) 0#32 = ⟨0#11, 19661, 52429, 80, 3200, 80, 2, 1⟩ ∧
    sampleWith (fun _ => 0x7FFF#16) 0#32 = ⟨0#11, 32767, 65535, 99, 3960, 80, 2, 1⟩ := by decide

set_option maxRecDepth 20000 in
/-- Entries of section 4's listing, the turning points and the mirrored and negated halves. -/
theorem test_refRom_entries :
    refRom 0#11 = 0#16 ∧ refRom 256#11 = 23170#16 ∧ refRom 512#11 = 32767#16 ∧ refRom 768#11 = 23170#16 ∧
    refRom 1024#11 = 0#16 ∧ refRom 1536#11 = 0x8001#16 ∧ refRom 2047#11 = 0xFF9B#16 ∧
    refQuarter.length = 513 := by decide

/-! ## Witnesses -/

/-- The state after BOOT, whatever `PWM_PERIOD_VALUE` is. -/
def armState : State := { State.reset with regs := initRegs State.reset.ports Regs.reset }

/-- A state in which a sample has just been published, at phase `ph` with `cyc` pulses counted. -/
def sampleState (ph : PhaseWord) (cyc : CycleWord) : State :=
  { State.reset with regs := startSample ph cyc { armState.regs with phase := ph, cycle := cyc } }

/-- A state in the last unit of the low phase of the pulse numbered `n` of such a sample. -/
def lowState (ph : PhaseWord) (cyc : CycleWord) (n : BitVec 2) : State :=
  { State.reset with
    regs := { (sampleState ph cyc).regs with
      outQ := false, rem := 1#2, fsm := sLow, p := n, cycle := cyc + n.zeroExtend 64 } }

/-- A stopped state. -/
def doneState : State := { State.reset with regs := stopLow armState.regs }

theorem witness_resetState : State.reset.Inv := by
  refine ⟨rfl, ?_⟩
  constructor <;> simp [State.reset, Regs.reset]

theorem witness_armState : armState.Inv ∧ armState.regs.fsm = sArm := by
  refine ⟨⟨rfl, ?_⟩, rfl⟩
  constructor <;> simp [armState, Regs.reset]

theorem witness_sampleState (ph : PhaseWord) (cyc : CycleWord) :
    (sampleState ph cyc).Inv ∧ (sampleState ph cyc).regs.fsm = sHigh ∧ (sampleState ph cyc).regs.p = 0#2 ∧
    (sampleState ph cyc).regs.rem = (sampleState ph cyc).regs.onLen :=
  ⟨⟨rfl, startSample_inv (r := { armState.regs with phase := ph, cycle := cyc }) rfl rfl ⟨rfl, rfl⟩⟩, rfl, rfl, rfl⟩

theorem witness_lowState (ph : PhaseWord) (cyc : CycleWord) {n : BitVec 2} (hn : n = 0#2 ∨ n = 1#2 ∨ n = 2#2) :
    (lowState ph cyc n).Inv ∧ (lowState ph cyc n).regs.fsm = sLow ∧ (lowState ph cyc n).regs.p = n :=
  ⟨⟨rfl, pulse_inv (low_inv (witness_sampleState ph cyc).1.2 rfl) (.inr rfl) hn⟩, rfl, rfl⟩

theorem witness_doneState : doneState.Inv ∧ doneState.Final ∧ doneState.hasReset = true := by
  refine ⟨⟨rfl, ?_⟩, ⟨rfl, rfl⟩, rfl⟩
  constructor <;> simp [doneState, armState, Regs.reset]

/-- Before the first reset a state in `S_DONE` is not final. -/
theorem test_powerUp_not_final :
    ({ doneState with hasReset := false } : State).regs.fsm = sDone ∧
    ¬({ doneState with hasReset := false } : State).Final := ⟨rfl, fun h => Bool.noConfusion h.1⟩

/-- A list of `n` edges that end a time unit each. -/
def ticks (n : Nat) : List Move := List.replicate n (.edge false true false)

theorem tickCount_ticks (n : Nat) : tickCount (ticks n) = n := by
  simp [tickCount, ticks, List.countP_replicate, Move.isTick]

theorem noReset_ticks (n : Nat) : NoResetIn (ticks n) := by
  intro m hm
  rw [List.eq_of_mem_replicate hm]
  rfl

theorem lengths_positive (ph : PhaseWord) (cyc : CycleWord) :
    0 < (sampleState ph cyc).regs.onLen.toNat ∧ 0 < (sampleState ph cyc).regs.offLen.toNat := by
  obtain ⟨h1, h2, -⟩ := (witness_sampleState ph cyc).1.2.i2 (.inl rfl)
  constructor
  · rcases h1 with h | h <;> rw [h] <;> decide
  · rcases h2 with h | h <;> rw [h] <;> decide

/-! One theorem for each statement with hypotheses, named after it; each clause has its case. -/

theorem witness_DecodeOfEncode :
    (Instr.reset true true 7#3 true true).wellFormed = true ∧ Instr.sampleNext.wellFormed = true ∧
    encode Instr.sampleNext = encode Instr.sampleNext := by decide

theorem witness_StepRunsTheSelectedOperation :
    (about highRegs (.edge false true true)).moves = .edge false true true :: [] ∧
    (about highRegs (.read 7#3)).moves = .read 7#3 :: [] ∧
    (about highRegs (.cfg 1#32 2#32 3#32)).moves = .cfg 1#32 2#32 3#32 :: [] ∧ State.reset.moves = [] := by decide

theorem witness_PlacedWordIsRun :
    decodeTableWord 8 0x00 = some (.init false false false false) ∧
    decodeTableWord 8 0xFF = some (.reset true true 7#3 true true) ∧
    decodeTableWord 8 0x4E = some (.pulseNext false) ∧ decodeTableWord 3 7 = some .rdRsvd := by decide

theorem witness_ResetWritesEveryRegister :
    (∃ u, exec (.reset true true 7#3 true true) armState = .next u) ∧ State.reset.ports.rst = false := ⟨⟨_, rfl⟩, rfl⟩

theorem witness_InitEnablesAndLatches :
    State.reset.hasReset = true ∧ (State.reset.Inv ∧ State.reset.regs.fsm = sInit) ∧
    (armState.Inv ∧ armState.regs.fsm = sArm) ∧
    ∃ u, exec (.reset false false 1#3 false false) armState = .next u ∧ armState.regs.fsm ≠ sInit ∧ u.regs.fsm = sInit :=
  ⟨rfl, ⟨witness_resetState, rfl⟩, witness_armState, _, rfl, by decide, rfl⟩

theorem witness_HoldsWriteNothing : armState.hasReset = true := rfl

theorem witness_ArmStartPublishesFirstSample : armState.hasReset = true ∧ armState.Inv ∧ armState.regs.fsm = sArm :=
  ⟨rfl, witness_armState.1, rfl⟩

theorem witness_ArmStopStops : armState.hasReset = true ∧ armState.Inv ∧ armState.regs.fsm = sArm :=
  ⟨rfl, witness_armState.1, rfl⟩

theorem witness_HighCountTakesOneUnit :
    (about highRegs (.read 0#3)).hasReset = true ∧ highRegs.rem = 2#2 ∧
    ({ highRegs with rem := 0#2 } : Regs).rem = 0#2 ∧ ({ highRegs with rem := 3#2 } : Regs).rem = 3#2 ∧
    (sampleState 0#32 0#64).Inv ∧ (sampleState 0#32 0#64).regs.fsm = sHigh :=
  ⟨rfl, rfl, rfl, rfl, (witness_sampleState _ _).1, rfl⟩

theorem witness_HighEndLowersTheLine :
    (about highRegs (.read 0#3)).hasReset = true ∧ highRegs.offLen = 1#2 ∧
    ({ highRegs with offLen := 2#2 } : Regs).offLen = 2#2 ∧ ({ highRegs with offLen := 0#2 } : Regs).offLen = 0#2 ∧
    ({ highRegs with offLen := 3#2 } : Regs).offLen = 3#2 := by decide

theorem witness_LowCountTakesOneUnit :
    (about lastLowRegs (.read 0#3)).hasReset = true ∧ ({ lastLowRegs with rem := 2#2 } : Regs).rem = 2#2 ∧
    ({ lastLowRegs with rem := 0#2 } : Regs).rem = 0#2 ∧ ({ lastLowRegs with rem := 3#2 } : Regs).rem = 3#2 ∧
    (lowState 0#32 0#64 0#2).Inv ∧ (lowState 0#32 0#64 0#2).regs.fsm = sLow :=
  ⟨rfl, rfl, rfl, rfl, (witness_lowState _ _ (.inl rfl)).1, rfl⟩

theorem witness_PulseNextCountsAndBegins :
    (about lastLowRegs (.read 0#3)).hasReset = true ∧
    (({ lastLowRegs with p := 0#2 } : Regs).p = 0#2 ∧ lastLowRegs.onLen = 1#2) ∧
    (({ lastLowRegs with p := 1#2, onLen := 2#2 } : Regs).p = 1#2 ∧ ({ lastLowRegs with onLen := 2#2 } : Regs).onLen = 2#2) ∧
    ¬(lastLowRegs.p = 0#2 ∨ lastLowRegs.p = 1#2) ∧
    ¬(({ lastLowRegs with p := 3#2 } : Regs).p = 0#2 ∨ ({ lastLowRegs with p := 3#2 } : Regs).p = 1#2) ∧
    ({ lastLowRegs with p := 0#2, onLen := 0#2 } : Regs).onLen = 0#2 ∧
    ({ lastLowRegs with p := 1#2, onLen := 3#2 } : Regs).onLen = 3#2 := by decide

theorem witness_SampleNextAdvancesAndPublishes :
    (lowState 0xFFFFFFFF#32 0#64 2#2).hasReset = true ∧ (lowState 0xFFFFFFFF#32 0#64 2#2).Inv ∧
    (lowState 0xFFFFFFFF#32 0#64 2#2).regs.fsm = sLow ∧ (lowState 0xFFFFFFFF#32 0#64 2#2).regs.p = 2#2 :=
  ⟨rfl, (witness_lowState _ _ (.inr (.inr rfl))).1, rfl, rfl⟩

theorem witness_SampleStopAdvancesAndStops :
    (lowState 0#32 0xFFFFFFFFFFFFFFFF#64 2#2).hasReset = true ∧ (lowState 0#32 0xFFFFFFFFFFFFFFFF#64 2#2).Inv ∧
    (lowState 0#32 0xFFFFFFFFFFFFFFFF#64 2#2).regs.fsm = sLow ∧ (lowState 0#32 0xFFFFFFFFFFFFFFFF#64 2#2).regs.p = 2#2 :=
  ⟨rfl, (witness_lowState _ _ (.inr (.inr rfl))).1, rfl, rfl⟩

theorem witness_DoneHoldKeepsAll :
    doneState.hasReset = true ∧ doneState.regs.fsm = sDone ∧ doneState.ports.rst = false ∧ doneState.Inv :=
  ⟨rfl, rfl, rfl, witness_doneState.1⟩

theorem witness_IllegalStateStops :
    IsIllegal (.illegalState5 false false false false) ∧ IsIllegal (.illegalState6 true true true true) ∧
    IsIllegal (.illegalState7 true false true true) ∧ armState.hasReset = true ∧ armState.Inv ∧
    ({ armState with ports := { armState.ports with rst := true } } : State).ports.rst = true :=
  ⟨⟨_, _, _, _, .inl rfl⟩, ⟨_, _, _, _, .inr (.inl rfl)⟩, ⟨_, _, _, _, .inr (.inr rfl)⟩, rfl, witness_armState.1, rfl⟩

theorem witness_IndexReadStaysInRange : ∃ t, playMoves [.edge true false false, .read 0#3] armState = .next t := ⟨_, rfl⟩

theorem witness_UnpublishedStatusReadsZero :
    (State.reset.Inv ∧ State.reset.regs.fsm = sInit) ∧ (armState.Inv ∧ armState.regs.fsm = sArm) ∧
    NoResetIn [.edge false true true, .read 7#3, .cfg 1#32 2#32 3#32] :=
  ⟨⟨witness_resetState, rfl⟩, witness_armState, by unfold NoResetIn; decide⟩

theorem witness_IndexIsPhaseBits18To8 :
    ∀ k, 8 ≤ k → k ≤ 18 → (0xFFF800FF#32).getLsbD k = (0x00000000#32).getLsbD k := by
  intro k h1 h2
  interval_cases k <;> decide

theorem witness_TimingClasses :
    (-32768 : Int) ≤ -32768 ∧ (-32768 : Int) ≤ -10486 ∧ (-10485 : Int) ≤ -10485 ∧ (-10485 : Int) ≤ 11141 ∧
    (11142 : Int) ≤ 11142 ∧ (11142 : Int) ≤ 32767 := by decide

theorem witness_StagesAreMonotone :
    ((-32768 : Int) ≤ -32768 ∧ (-32768 : Int) ≤ 32767 ∧ (32767 : Int) ≤ 32767) ∧ (20 ≤ 20 ∧ 20 ≤ 80 ∧ 80 ≤ 80) := by decide

theorem witness_LeastSampleOfEachPercentage :
    (0 ≤ 99 ∧ percentOf (normalise (-32768)) = 0) ∧ (99 ≤ 99 ∧ percentOf (normalise 32767) = 99) := by decide

theorem witness_FaultsAreExactlyTheTable :
    (about highRegs (.edge false true false)).moves = .edge false true false :: [] ∧
    (about highRegs (.read 7#3)).moves = .read 7#3 :: [] ∧
    (about highRegs (.cfg 1#32 2#32 3#32)).moves = .cfg 1#32 2#32 3#32 :: [] ∧
    Sys2Proof.core.run 1 (about { highRegs with rem := 3#2 } (.edge false true false)) =
      .fault (.invariantFault (.rem 3#2)) := ⟨rfl, rfl, rfl, rfl⟩

theorem witness_StepKeepsInvariants :
    State.Inv { armState with moves := [.edge false true false] } ∧
    ∃ t, step { armState with moves := [.edge false true false] } = .next t := ⟨witness_armState.1, _, rfl⟩

theorem witness_NoStepFailsUnderInvariants :
    (sampleState 0#32 0#64).Inv ∧ (lowState 0#32 0#64 2#2).Inv ∧ doneState.Inv :=
  ⟨(witness_sampleState _ _).1, (witness_lowState _ _ (.inr (.inr rfl))).1, witness_doneState.1⟩

theorem witness_SequencerFrame :
    IsSequencer (.highCount false false) ∧ (∃ t, exec (.highCount false false) (about highRegs (.read 0#3)) = .next t) ∧
    (about { highRegs with rem := 3#2 } (.read 0#3)).hasReset = true ∧
    exec (.highCount false false) (about { highRegs with rem := 3#2 } (.read 0#3)) =
      .fault (.invariantFault (.rem 3#2)) ∧ armState.Inv := by
  refine ⟨⟨rfl, ?_, ?_, ?_⟩, ⟨_, rfl⟩, rfl, rfl, witness_armState.1⟩
  · rintro ⟨_, _, _, _, _, h⟩; cases h
  · rintro ⟨_, _, _, _, h | h | h⟩ <;> cases h
  · intro _ _ _ _ h; cases h

theorem witness_HighEndAndPeriodEndNeverWritten :
    (∃ t, exec (.reset false false 0#3 false false) armState = .next t) ∧
    (∃ t, exec (.holdArm false false false) armState = .next t) ∧ armState.regs.stHighEnd = 0#32 ∧
    armState.regs.stPeriodEnd = 0#32 ∧ ∃ t, step { armState with moves := [.edge false false false] } = .next t :=
  ⟨⟨_, rfl⟩, ⟨_, rfl⟩, rfl, rfl, _, rfl⟩

theorem witness_CycleCountsEndedPulses :
    (∃ t, exec (.reset false false 0#3 false false) armState = .next t) ∧
    (∃ t, exec (.pulseNext true) (about { lastLowRegs with p := 1#2 } (.read 0#3)) = .next t) ∧
    (∃ t, exec .sampleNext (about lastLowRegs (.read 0#3)) = .next t) ∧
    (∃ t, exec .sampleStop (about lastLowRegs (.read 0#3)) = .next t) ∧
    (∃ t, exec .rdCycle armState = .next t) := ⟨⟨_, rfl⟩, ⟨_, rfl⟩, ⟨_, rfl⟩, ⟨_, rfl⟩, ⟨_, rfl⟩⟩

theorem witness_PublishedFieldsChangeTogether :
    (∃ t, step { armState with moves := [.edge true false false] } = .next t) ∧
    (∃ t, step { armState with moves := [.edge false true false] } = .next t) ∧
    (∃ t, step { armState with moves := [.edge false false false] } = .next t) := ⟨⟨_, rfl⟩, ⟨_, rfl⟩, ⟨_, rfl⟩⟩

theorem witness_DutyIsAMultipleOf40 :
    (∃ d, d ≤ 99 ∧ ({ armState.regs with stDuty := 3960#12 } : Regs).stDuty.toNat = 40 * d) ∧
    ∃ t, step { armState with
      regs := { armState.regs with stDuty := 3960#12 }, moves := [.edge false true false] } = .next t :=
  ⟨⟨99, by decide, by decide⟩, _, rfl⟩

/-- One state for each row of the transition table. -/
theorem witness_TransitionTable :
    ∀ x ∈ [(bootRegs, true, false, false), (Regs.reset, false, true, true), (bootRegs, false, false, true),
        (bootRegs, false, true, false), (bootRegs, false, true, true), (highRegs, false, false, true),
        (highRegs, false, true, true), ({ highRegs with rem := 1#2 }, false, true, true),
        (lastLowRegs, false, false, true), ({ lastLowRegs with rem := 2#2 }, false, true, true),
        ({ lastLowRegs with p := 1#2 }, false, true, true), (lastLowRegs, false, true, false),
        (lastLowRegs, false, true, true), ({ bootRegs with fsm := sDone }, false, true, true)],
      (regsOf (edgeResult { State.reset with
        regs := x.1, ports := { State.reset.ports with rst := x.2.1, tick := x.2.2.1, stop := x.2.2.2 } })).isSome =
        true := by decide

theorem witness_StopActsOnlyAtBoundaries :
    ¬(false = false ∧ true = true ∧
      (highRegs.fsm = sArm ∨ (highRegs.fsm = sLow ∧ highRegs.rem = 1#2 ∧ highRegs.p = 2#2))) ∧
    (∃ t, step { about highRegs (.read 0#3) with moves := .edge false true true :: [] } = .next t) ∧
    step { about { highRegs with rem := 3#2 } (.read 0#3) with moves := .edge false true true :: [] } =
      .fault (.invariantFault (.rem 3#2)) := ⟨by decide, ⟨_, rfl⟩, rfl⟩

theorem witness_ConfigurationLatchedOnlyAtInit :
    (∃ t, exec (.init false false false false) State.reset = .next t) ∧
    (∃ t, exec (.reset false false 0#3 false false) armState = .next t) ∧
    (∃ t, exec (.holdArm false false false) armState = .next t) ∧
    ∃ t, step { armState with moves := [.edge false false false] } = .next t ∧ armState.regs.fsm ≠ sInit ∧
      t.regs.fsm ≠ sInit := ⟨⟨_, rfl⟩, ⟨_, rfl⟩, ⟨_, rfl⟩, _, rfl, by decide, by decide⟩

theorem witness_ConfigurationNeverConsulted :
    ((Instr.highCount false false).format = .fsm ∧
      sansUnread highRegs = sansUnread { highRegs with cfgPinQ := 9#32, cfgSineQ := 7#32, stPeriod := 1#32 } ∧
      (∃ t, exec (.highCount false false) (about highRegs (.read 0#3)) = .next t) ∧
      ∃ f, exec (.highCount false false) (about { highRegs with rem := 3#2 } (.read 0#3)) = .fault f) ∧
    List.Forall₂ SameButConfig [.cfg 1#32 2#32 3#32, .edge false true false] [.cfg 4#32 5#32 6#32, .edge false true false] ∧
    sansConfig highRegs = sansConfig { highRegs with cfgPinQ := 9#32 } ∧
    (∃ t, playMoves [.cfg 1#32 2#32 3#32, .edge false true false] (about highRegs (.read 0#3)) = .next t) ∧
    ∃ f, playMoves [.cfg 1#32 2#32 3#32, .edge false true false] (about { highRegs with rem := 3#2 } (.read 0#3)) =
      .fault f :=
  ⟨⟨rfl, rfl, ⟨_, rfl⟩, _, rfl⟩, .cons trivial (.cons rfl .nil), rfl, ⟨_, rfl⟩, _, rfl⟩

theorem witness_PulseWaveform :
    ((sampleState 0#32 0#64).Inv ∧ (sampleState 0#32 0#64).regs.fsm = sHigh ∧
      (sampleState 0#32 0#64).regs.rem = (sampleState 0#32 0#64).regs.onLen) ∧
    (NoResetIn [] ∧ tickCount [] < (sampleState 0#32 0#64).regs.onLen.toNat) ∧
    (∃ ms, NoResetIn ms ∧ tickCount ms = (sampleState 0#32 0#64).regs.onLen.toNat ∧
      tickCount ms < (sampleState 0#32 0#64).regs.onLen.toNat + (sampleState 0#32 0#64).regs.offLen.toNat) ∧
    ∃ ms, NoResetIn ms ∧
      tickCount ms = (sampleState 0#32 0#64).regs.onLen.toNat + (sampleState 0#32 0#64).regs.offLen.toNat := by
  obtain ⟨h1, h2⟩ := lengths_positive 0#32 0#64
  exact ⟨⟨(witness_sampleState _ _).1, rfl, rfl⟩, ⟨noReset_ticks 0, h1⟩,
    ⟨ticks _, noReset_ticks _, tickCount_ticks _, by rw [tickCount_ticks]; omega⟩,
    ticks _, noReset_ticks _, tickCount_ticks _⟩

theorem witness_SampleLastsThreePulses :
    ((sampleState 0#32 0#64).Inv ∧ (sampleState 0#32 0#64).regs.fsm = sHigh ∧ (sampleState 0#32 0#64).regs.p = 0#2 ∧
      (sampleState 0#32 0#64).regs.rem = (sampleState 0#32 0#64).regs.onLen) ∧
    (NoResetIn [] ∧
      tickCount [] < 3 * ((sampleState 0#32 0#64).regs.onLen.toNat + (sampleState 0#32 0#64).regs.offLen.toNat)) ∧
    ∃ ms, NoResetIn ms ∧
      tickCount ms = 3 * ((sampleState 0#32 0#64).regs.onLen.toNat + (sampleState 0#32 0#64).regs.offLen.toNat) := by
  obtain ⟨h1, h2⟩ := lengths_positive 0#32 0#64
  refine ⟨⟨(witness_sampleState _ _).1, rfl, rfl, rfl⟩, ⟨noReset_ticks 0, ?_⟩,
    ticks _, noReset_ticks _, tickCount_ticks _⟩
  show 0 < _
  omega

theorem witness_SampleNumbering :
    (armState.Inv ∧ armState.regs.fsm = sArm ∧ ∃ t, exec (.armStart false false) armState = .next t) ∧
    ((lowState 0#32 0#64 2#2).Inv ∧ InSample 0 (lowState 0#32 0#64 2#2).regs ∧ (lowState 0#32 0#64 2#2).regs.p = 2#2 ∧
      ∃ t, exec .sampleNext (lowState 0#32 0#64 2#2) = .next t) ∧
    (nextMove { lowState 0#32 0#64 2#2 with moves := [.edge false true false] }).1.isReset = false ∧
    (fetch { lowState 0#32 0#64 2#2 with moves := [.edge false true false] }).1 = some .sampleNext ∧
    (fetch { lowState 0#32 0#64 2#2 with moves := [.edge false true true] }).1 = some .sampleStop ∧
    (fetch { lowState 0#32 0#64 2#2 with moves := [.edge false false true] }).1 = some (.holdLow true true true) ∧
    (fetch { lowState 0#32 0#64 2#2 with moves := [.read 7#3] }).1 = some .rdRsvd ∧
    (0 < 524287 ∧ 524287 < 524288) ∧ 255 < 256 :=
  ⟨⟨witness_armState.1, rfl, _, rfl⟩,
    ⟨(witness_lowState _ _ (.inr (.inr rfl))).1, ⟨.inr rfl, rfl, rfl, rfl⟩, rfl, _, rfl⟩, rfl, rfl, rfl, rfl, rfl,
    by decide, by decide⟩

theorem witness_NothingMovesWithoutATick :
    (sampleState 0#32 0#64).Inv ∧ (sampleState 0#32 0#64).regs.fsm ≠ sInit ∧
    NoResetIn [.edge false false true, .read 7#3, .cfg 1#32 2#32 3#32] ∧
    tickCount [.edge false false true, .read 7#3, .cfg 1#32 2#32 3#32] = 0 :=
  ⟨(witness_sampleState _ _).1, by decide, by unfold NoResetIn; decide, rfl⟩

theorem witness_DoneUntilReset :
    doneState.Final ∧ NoResetIn [.edge false true true, .read 7#3] :=
  ⟨witness_doneState.2.1, by unfold NoResetIn; decide⟩

theorem witness_OnlyTheStopsEndARun :
    armState.hasReset = true ∧ (lowState 0#32 0#64 2#2).hasReset = true ∧
    (∃ t, step { armState with moves := [.edge false true true] } = .next t ∧ t.Final) ∧
    (¬armState.Final ∧ (∀ m ∈ [.edge true false false, .read 7#3], Move.isStop m = false) ∧
      ∃ t, playMoves [.edge true false false, .read 7#3] armState = .next t) ∧
    (({ doneState with hasReset := false } : State).hasReset = false ∧ NoResetIn [.cfg 1#32 2#32 3#32, .read 7#3] ∧
      ∃ t, playMoves [.cfg 1#32 2#32 3#32, .read 7#3] { doneState with hasReset := false } = .next t) :=
  ⟨rfl, rfl, ⟨_, rfl, rfl, rfl⟩, ⟨fun h => absurd h.2 (by decide), by decide, _, rfl⟩,
    ⟨rfl, by unfold NoResetIn; decide, _, rfl⟩⟩

theorem witness_PublishedCycleDoesNotDecrease :
    (lowState 0#32 0#64 2#2).Inv ∧ (lowState 0#32 0#64 2#2).regs.stCycle ≤ (lowState 0#32 0#64 2#2).regs.cycle ∧
    (lowState 0#32 0#64 2#2).regs.cycle.toNat + tickCount [.edge false true false] < 2 ^ 64 ∧
    NoResetIn [.edge false true false] :=
  ⟨(witness_lowState _ _ (.inr (.inr rfl))).1, by decide, by decide, noReset_ticks 1⟩

/-- At the last count before the wrap, with the empty list, which ends in the state it began in. -/
theorem witness_EqualCyclesBracketNoPublish :
    (sampleState 0#32 0xFFFFFFFFFFFFFFFF#64).Inv ∧ (sampleState 0#32 0xFFFFFFFFFFFFFFFF#64).regs.fsm = sHigh ∧
    (sampleState 0#32 0xFFFFFFFFFFFFFFFF#64).regs.stCycle ≤ (sampleState 0#32 0xFFFFFFFFFFFFFFFF#64).regs.cycle ∧
    (sampleState 0#32 0xFFFFFFFFFFFFFFFF#64).regs.cycle.toNat + tickCount [] < 2 ^ 64 ∧ NoResetIn [] ∧
    playMoves [] (sampleState 0#32 0xFFFFFFFFFFFFFFFF#64) = .next (sampleState 0#32 0xFFFFFFFFFFFFFFFF#64) :=
  ⟨(witness_sampleState _ _).1, rfl, by decide, by decide, noReset_ticks 0, rfl⟩

theorem witness_BootReachesFirstSample :
    State.reset.hasReset = true ∧ State.reset.regs = Regs.reset ∧ NoResetIn [.edge false false true] ∧
    tickCount [.edge false false true] = 0 := ⟨rfl, rfl, by unfold NoResetIn; decide, rfl⟩

theorem witness_DutyOverPeriodIsThePercentage : bootRegs.stPeriod = 4000#32 := rfl

end Sys2Proof.Tests
end

/-! PROOFS, the step: what it can do, said once for edges, reads, configuration moves and drawn moves alike. -/

namespace Sys2Proof.Machine

open Claims

/-! ## The selected operation -/

theorem encode_decodeEdge (w : DecodeWord) : encode (decodeEdge w) = .edge w := by revert w; decide

theorem decodeRead_format (a : PortAddr) : (decodeRead a).format = .read := by revert a; decide

theorem nextMove_regs (s : State) : (nextMove s).2.regs = s.regs := by
  cases h : s.moves <;> simp [nextMove, h]

theorem nextMove_hasReset (s : State) : (nextMove s).2.hasReset = s.hasReset := by
  cases h : s.moves <;> simp [nextMove, h]

@[simp] theorem fetch_regs (s : State) : (fetch s).2.regs = s.regs := nextMove_regs s

@[simp] theorem fetch_hasReset (s : State) : (fetch s).2.hasReset = s.hasReset := nextMove_hasReset s

/-- A selected operation is that of a read's address or that of the decode word which an edge forms. -/
theorem fetch_some_cases {s : State} {i : Instr} (h : (fetch s).1 = some i) :
    (∃ a, i = decodeRead a) ∨
    ∃ rst tick stop, (nextMove s).1 = .edge rst tick stop ∧ i = decodeEdge (decodeWordOf (fetch s).2) ∧
      decodeWordOf (fetch s).2 = packDecodeWord rst tick stop s.regs.fsm (remIsOne s.regs) (pIsTwo s.regs) := by
  have hsel : selectOp (nextMove s).1 (fetch s).2 = some i := h
  have hports : (fetch s).2.ports = drive (nextMove s).1 (nextMove s).2.ports := rfl
  cases hm : (nextMove s).1 with
  | edge rst tick stop =>
    rw [hm] at hsel hports
    refine .inr ⟨rst, tick, stop, rfl, (Option.some.inj hsel).symm, ?_⟩
    rw [decodeWordOf, hports, fetch_regs]
    rfl
  | cfg pin carrier sine => rw [hm] at hsel; cases hsel
  | read a => rw [hm] at hsel; exact .inl ⟨a, (Option.some.inj hsel).symm⟩

/-- Only an edge selects an operation of the decode-word format, which is then the one that its decode word encodes. -/
theorem fetch_fsm {s : State} {i : Instr} (h : (fetch s).1 = some i) (hi : i.format = .fsm) :
    ∃ rst tick stop, (nextMove s).1 = .edge rst tick stop ∧
      encode i = .edge (packDecodeWord rst tick stop s.regs.fsm (remIsOne s.regs) (pIsTwo s.regs)) := by
  rcases fetch_some_cases h with ⟨a, rfl⟩ | ⟨rst, tick, stop, hm, rfl, hw⟩
  · rw [decodeRead_format] at hi; cases hi
  · exact ⟨rst, tick, stop, hm, by rw [encode_decodeEdge, hw]⟩

/-- RESET is selected only where `rst` is 1. -/
theorem isReset_of_fetch {s : State} {i : Instr} (h : (fetch s).1 = some i) (hi : IsReset i) :
    (nextMove s).1.isReset = true := by
  obtain ⟨tk, st, f, e, p, rfl⟩ := hi
  obtain ⟨rst, tick, stop, hm, henc⟩ := fetch_fsm h rfl
  have hrst := congrArg dwRst (OpWord.edge.inj henc)
  rw [dwRst_pack, dwRst_pack] at hrst
  rw [hm, hrst]
  rfl

/-- INIT is selected only in `S_INIT`. -/
theorem fsm_of_fetch_init {s : State} {tk st e p : Bool} (h : (fetch s).1 = some (.init tk st e p)) :
    s.regs.fsm = sInit := by
  obtain ⟨rst, tick, stop, -, henc⟩ := fetch_fsm h rfl
  have hfsm := congrArg dwFsm (OpWord.edge.inj henc)
  rw [dwFsm_pack, dwFsm_pack] at hfsm
  exact hfsm.symm

/-- The two operations that stop a run are selected only where `stop` is 1. -/
theorem isStop_of_fetch {s : State} {i : Instr} (h : (fetch s).1 = some i)
    (hi : (∃ e p, i = .armStop e p) ∨ i = .sampleStop) : (nextMove s).1.isStop = true := by
  rcases hi with ⟨e, p, rfl⟩ | rfl <;>
  · obtain ⟨rst, tick, stop, hm, henc⟩ := fetch_fsm h rfl
    have hstop := congrArg dwStop (OpWord.edge.inj henc)
    rw [dwStop_pack, dwStop_pack] at hstop
    rw [hm, hstop]
    rfl

/-! ## The register writes of an operation -/

/-- The register writes of the operations other than RESET, grouped by what they write. SAMPLE_NEXT and SAMPLE_STOP do after
`advance` what ARM_START and ARM_STOP do at once, so `x` is the registers before or after it. -/
inductive EdgeWrites (q : Ports) (r : Regs) (i : Instr) : Regs → Prop
  /-- INIT (R201). -/
  | latch (hi : ∃ tk st e p, i = .init tk st e p) : EdgeWrites q r i (initRegs q r)
  /-- The holds (R131, R140). -/
  | keep : EdgeWrites q r i r
  /-- HIGH_COUNT and LOW_COUNT (R134, R136). -/
  | countUnit : EdgeWrites q r i { r with rem := 1#2 }
  /-- HIGH_END (R135). -/
  | lowerLine : EdgeWrites q r i { r with outQ := false, rem := r.offLen, fsm := sLow }
  /-- PULSE_NEXT (R137). -/
  | raiseLine : EdgeWrites q r i
      { r with cycle := r.cycle + 1#64, p := r.p + 1#2, outQ := true, rem := r.onLen, fsm := sHigh }
  /-- ARM_START and SAMPLE_NEXT (R132, R138). -/
  | publish (x : Regs) (hx : x = r ∨ x = advance r) : EdgeWrites q r i (startSample x.phase x.cycle x)
  /-- ARM_STOP and SAMPLE_STOP (R133, R139). -/
  | stop (hi : (∃ e p, i = .armStop e p) ∨ i = .sampleStop) (x : Regs) (hx : x = r ∨ x = advance r) :
      EdgeWrites q r i (stopLow x)

/-- The register function of an edge operation writes nothing else. -/
theorem edgeOp_writes {i : Instr} {q : Ports} {r r' : Regs} (h : edgeOp i q r = .ok r') : EdgeWrites q r i r' := by
  cases i with
  | init tk st e p => cases h; exact .latch ⟨tk, st, e, p, rfl⟩
  | armStart e p => cases h; exact .publish r (.inl rfl)
  | armStop e p => cases h; exact .stop (.inl ⟨e, p, rfl⟩) r (.inl rfl)
  | highCount st p | lowCount st p => obtain ⟨-, rfl⟩ := countDown_ok_iff.mp h; exact .countUnit
  | highEnd st p => obtain ⟨-, rfl⟩ := endHigh_ok_iff.mp h; exact .lowerLine
  | pulseNext st => obtain ⟨-, -, rfl⟩ := nextPulse_ok_iff.mp h; exact .raiseLine
  | sampleNext => cases h; exact .publish (advance r) (.inr rfl)
  | sampleStop => cases h; exact .stop (.inr rfl) (advance r) (.inr rfl)
  | illegalState5 | illegalState6 | illegalState7 => cases h
  | reset | holdArm | holdHigh | holdLow | doneHold | rdIndex | rdValue | rdDuty | rdPeriod | rdHighEnd | rdPeriodEnd
  | rdCycle | rdRsvd => cases h; exact .keep

/-- RESET's registers (R200). -/
theorem exec_reset_regs {i : Instr} {s t : State} (hi : IsReset i) (h : exec i s = .next t) : t.regs = Regs.reset := by
  obtain ⟨tk, st, f, e, p, rfl⟩ := hi
  cases h
  rfl

/-- Everything a completed operation can do to the registers: RESET's values; an edge's writes, after a RESET; or nothing. -/
theorem exec_regs_cases {i : Instr} {s t : State} (h : exec i s = .next t) :
    (IsReset i ∧ t.regs = Regs.reset ∧ t.hasReset = true) ∨
    (s.hasReset = true ∧ t.hasReset = true ∧ EdgeWrites s.ports s.regs i t.regs) ∨
    (i.format = .read ∧ t.regs = s.regs ∧ t.hasReset = s.hasReset) := by
  rcases exec_next_cases h with ⟨hi, rfl⟩ | ⟨hr, r, ho, rfl⟩ | ⟨hi, w, rfl⟩
  · exact .inl ⟨hi, rfl, rfl⟩
  · exact .inr (.inl ⟨hr, hr, edgeOp_writes ho⟩)
  · exact .inr (.inr ⟨hi, rfl, rfl⟩)

/-! ## A whole step -/

/-- A step performs an operation, or it has only driven the inputs of a CFG. -/
theorem step_next_cases {s t : State} (h : step s = .next t) :
    (∃ i, (fetch s).1 = some i ∧ exec i (fetch s).2 = .next t) ∨ ((fetch s).1 = none ∧ t = (fetch s).2) := by
  unfold step at h
  rcases hf : fetch s with ⟨_ | i, u⟩ <;> rw [hf] at h
  · exact .inr ⟨rfl, (Host.Outcome.next.inj h).symm⟩
  · exact .inl ⟨i, rfl, h⟩

/-- Everything a completed step can do to the registers: keep them, as a read or a CFG; reset them; or write them at an edge
without `rst`, after a RESET. -/
theorem step_regs_cases {s t : State} (h : step s = .next t) :
    (t.regs = s.regs ∧ t.hasReset = s.hasReset) ∨
    ((nextMove s).1.isReset = true ∧ t.regs = Regs.reset ∧ t.hasReset = true) ∨
    (s.hasReset = true ∧ t.hasReset = true ∧
      ∃ i, (fetch s).1 = some i ∧ EdgeWrites (fetch s).2.ports s.regs i t.regs) := by
  rcases step_next_cases h with ⟨i, hi, he⟩ | ⟨-, rfl⟩
  · rcases exec_regs_cases he with ⟨hreset, hregs, hr⟩ | ⟨hr, hr', hw⟩ | ⟨-, hregs, hr⟩
    · exact .inr (.inl ⟨isReset_of_fetch hi hreset, hregs, hr⟩)
    · rw [fetch_regs] at hw
      exact .inr (.inr ⟨(fetch_hasReset s).symm.trans hr, hr', i, hi, hw⟩)
    · exact .inl ⟨hregs.trans (fetch_regs s), hr.trans (fetch_hasReset s)⟩
  · exact .inl ⟨fetch_regs s, fetch_hasReset s⟩

end Sys2Proof.Machine

/-! PROOFS, the invariants I1 to I7: each register update of an edge keeps them (10_state.md R40). -/

namespace Sys2Proof.Machine

/-- A read gives the reader the word of its address and writes nothing else (42_status_port.md R160). -/
theorem exec_decodeRead (a : PortAddr) (s : State) :
    exec (decodeRead a) s = .next { s with rdata := memRead a s.regs } := by
  unfold decodeRead memRead
  split_ifs <;> rfl

theorem reset_inv : Regs.reset.Inv := by constructor <;> simp [Regs.reset]

/-- What the invariants say of the registers that every state past INIT shares. -/
theorem Regs.Inv.enabled {r : Regs} (h : r.Inv) (hf : r.fsm ≠ sInit) :
    r.oeQ = true ∧ r.stPeriod = nominalPeriod ∧ r.stHighEnd = 0#32 ∧ r.stPeriodEnd = 0#32 :=
  ⟨h.i4.mpr hf, h.i4Period hf, h.i7⟩

/-- INIT (R201). -/
theorem initRegs_inv {r : Regs} (q : Ports) (h : r.Inv) (hf : r.fsm = sInit) : (initRegs q r).Inv := by
  have h3 := h.i3
  have h5 := h.i5 (.inl hf)
  constructor <;> simp_all

/-- ARM_STOP and SAMPLE_STOP (R133, R139), whatever the sequencer held before. -/
theorem stopLow_inv {r : Regs} (h4 : r.oeQ = true) (hp : r.stPeriod = nominalPeriod)
    (h7 : r.stHighEnd = 0#32 ∧ r.stPeriodEnd = 0#32) : (stopLow r).Inv := by
  constructor <;> simp [h4, hp, h7]

theorem one_le_of_legal {v : BitVec 2} (h : v = 1#2 ∨ v = 2#2) : 1#2 ≤ v := by revert v; decide

/-- HIGH_COUNT and LOW_COUNT (R134, R136): one unit left is legal in either phase. -/
theorem countUnit_inv {r : Regs} (h : r.Inv) (hf : r.fsm = sHigh ∨ r.fsm = sLow) :
    Regs.Inv { r with rem := 1#2 } := by
  obtain ⟨hon, hoff, -⟩ := h.i2 hf
  have unarmed : ¬(r.fsm = sInit ∨ r.fsm = sArm) := by rcases hf with hf | hf <;> simp [hf]
  exact { h with
    i2High := fun _ => ⟨BitVec.le_refl _, one_le_of_legal hon⟩
    i2Low := fun _ => ⟨BitVec.le_refl _, one_le_of_legal hoff⟩
    i5 := fun hf' => absurd hf' unarmed }

/-- HIGH_END (R135). -/
theorem lowerLine_inv {r : Regs} (h : r.Inv) (hf : r.fsm = sHigh) :
    Regs.Inv { r with outQ := false, rem := r.offLen, fsm := sLow } := by
  have h2 := h.i2 (.inl hf)
  have h6 := h.i6 (.inl hf)
  obtain ⟨h4, hp, h7⟩ := h.enabled (by simp [hf])
  constructor <;> simp_all [one_le_of_legal]

/-- PULSE_NEXT (R137), the line: the next pulse's high phase begins. -/
theorem raiseLine_inv {r : Regs} (h : r.Inv) (hf : r.fsm = sLow) :
    Regs.Inv { r with outQ := true, rem := r.onLen, fsm := sHigh } := by
  have h2 := h.i2 (.inr hf)
  have h6 := h.i6 (.inr hf)
  obtain ⟨h4, hp, h7⟩ := h.enabled (by simp [hf])
  constructor <;> simp_all [one_le_of_legal]

/-- PULSE_NEXT (R137): the pulse is counted in `p` and in `cycle` alike, so I6 goes on holding. -/
theorem nextPulse_inv {r : Regs} (h : r.Inv) (hf : r.fsm = sLow) (hp : r.p = 0#2 ∨ r.p = 1#2) :
    Regs.Inv { r with cycle := r.cycle + 1#64, p := r.p + 1#2, outQ := true, rem := r.onLen, fsm := sHigh } := by
  obtain ⟨-, -, -, -, -, hc⟩ := h.i6 (.inr hf)
  have hn : r.p + 1#2 = 0#2 ∨ r.p + 1#2 = 1#2 ∨ r.p + 1#2 = 2#2 := by rcases hp with hp | hp <;> simp [hp]
  have hcyc : r.cycle + 1#64 = r.stCycle + (r.p + 1#2).zeroExtend 64 := by
    rcases hp with hp | hp <;> rw [hc, hp, BitVec.add_assoc] <;> rfl
  rw [hcyc]
  exact raiseLine_inv (pulse_inv h (.inr hf) hn) hf

/-- An edge keeps the invariants, row by row of the transition table (41_pwm_sequencer.md R146). -/
theorem edge_keeps_inv {s t : State} (hs : s.Inv) (h : exec (decodeEdge (decodeWordOf s)) s = .next t) : t.Inv := by
  obtain ⟨hr, hi⟩ := hs
  cases hrst : s.ports.rst with
  | true =>
    rw [decodeWordOf, hrst, decodeEdge_rst] at h
    cases h
    exact ⟨rfl, reset_inv⟩
  | false =>
    obtain ⟨-, hrow⟩ := edge_next_cases hrst h
    rcases hrow with ⟨hf, rfl⟩ | ⟨-, -, rfl⟩ | ⟨hf, -, -, rfl⟩ | ⟨hf, -, -, rfl⟩ | ⟨hf, -, -, rfl⟩ |
      ⟨hf, -, -, -, rfl⟩ | ⟨hf, -, -, hp, -, rfl⟩ | ⟨hf, -, -, -, -, rfl⟩ | ⟨hf, -, -, -, -, rfl⟩ <;> refine ⟨hr, ?_⟩
    · exact initRegs_inv _ hi hf
    · exact hi
    · obtain ⟨h4, hp, h7⟩ := hi.enabled (by simp [hf])
      exact startSample_inv h4 hp h7
    · obtain ⟨h4, hp, h7⟩ := hi.enabled (by simp [hf])
      exact stopLow_inv h4 hp h7
    · exact countUnit_inv hi hf
    · exact lowerLine_inv hi hf
    · exact nextPulse_inv hi hf hp
    · obtain ⟨h4, hp, h7⟩ := hi.enabled (by simp [hf])
      exact startSample_inv (r := advance s.regs) h4 hp h7
    · obtain ⟨h4, hp, h7⟩ := hi.enabled (by simp [hf])
      exact stopLow_inv (r := advance s.regs) h4 hp h7

/-- Every step keeps the invariants, whichever move it takes. -/
theorem step_keeps_inv {s t : State} (hs : s.Inv) (h : step s = .next t) : t.Inv := by
  have hu : (fetch s).2.Inv := ⟨(fetch_hasReset s).trans hs.1, (fetch_regs s).symm ▸ hs.2⟩
  rcases step_next_cases h with ⟨i, hi, he⟩ | ⟨-, rfl⟩
  · rcases fetch_some_cases hi with ⟨a, rfl⟩ | ⟨rst, tick, stop, -, rfl, -⟩
    · rw [exec_decodeRead] at he
      cases he
      exact hu
    · exact edge_keeps_inv hu he
  · exact hu

end Sys2Proof.Machine

namespace Sys2Proof.Claims

/-- Settles O35, by the lemma for each row of the transition table. -/
theorem stepKeepsInvariants : Obligations.StepKeepsInvariants := by
  intro s t hs h
  exact Machine.step_keeps_inv hs h

/-- Settles O34, the base of O35. -/
theorem resetStateMeetsInvariants : Obligations.ResetStateMeetsInvariants := ⟨rfl, Machine.reset_inv⟩

end Sys2Proof.Claims

/-! PROOFS, the step itself: it runs the operation of the move it takes. -/

namespace Sys2Proof.Machine

/-- Where no move is listed, the drawn one is fetched as if it were the list. -/
theorem fetch_nil_eq_listed {s : State} (h : s.moves = []) :
    fetch s = fetch { s with moves := [Config.freeMove s.draws], draws := s.draws + 1 } := by
  obtain ⟨regs, ports, rdata, hasReset, moves, draws⟩ := s
  subst h
  rfl

end Sys2Proof.Machine

namespace Sys2Proof.Claims

open Machine

/-- Settles O8: the fetch of each kind of move, unfolded once in `step_cons`. -/
theorem stepRunsTheSelectedOperation : Obligations.StepRunsTheSelectedOperation := by
  refine ⟨?edge, ?read, ?cfg, ?drawn⟩
  case edge => intro s rst tick stop ms h; exact step_cons h
  case read => intro s a ms h; exact step_cons h
  case cfg => intro s pin carrier sine ms h; exact step_cons h
  case drawn => intro s h; unfold step; rw [fetch_nil_eq_listed h]

end Sys2Proof.Claims

/-! PROOFS, frames: which registers an operation and a step leave as they were (10_state.md R28, R30, R32, R34, R60). -/

namespace Sys2Proof.Machine

open Claims

/-! ## The published fields -/

theorem pct_eq_patternPercent (b : SinePattern) : pct b = patternPercent b := (percentOf_eq _).symm

theorem pct_le (b : SinePattern) : pct b ≤ 99 := pct_eq_patternPercent b ▸ patternPercent_le b

section StartSample

variable (ph : PhaseWord) (cyc : CycleWord) (r : Regs)

@[simp] theorem startSample_phase : (startSample ph cyc r).phase = r.phase := rfl
@[simp] theorem startSample_cycle : (startSample ph cyc r).cycle = r.cycle := rfl
@[simp] theorem startSample_fsm : (startSample ph cyc r).fsm = sHigh := rfl
@[simp] theorem startSample_stIndex : (startSample ph cyc r).stIndex = sineIndexOf ph := rfl
@[simp] theorem startSample_stValue : (startSample ph cyc r).stValue = romRead (sineIndexOf ph) := ofInt_signed16 _
@[simp] theorem startSample_stCycle : (startSample ph cyc r).stCycle = cyc := rfl

/-- The published duty fits its 12 bits (40_sample_pipeline.md R106). -/
theorem startSample_stDuty : (startSample ph cyc r).stDuty.toNat = 40 * pct (startSample ph cyc r).stValue := by
  have hle := patternPercent_le (romRead (sineIndexOf ph))
  rw [startSample_stValue, pct_eq_patternPercent, startSample, sampleAt, publish_stDuty, sampleWith_dval,
    publishedDuty_eq, BitVec.toNat_ofNat]
  omega

end StartSample

/-- The four published fields of `r'` are those of `r` (10_state.md R28). -/
def SamePublished (r r' : Regs) : Prop :=
  r'.stIndex = r.stIndex ∧ r'.stValue = r.stValue ∧ r'.stDuty = r.stDuty ∧ r'.stCycle = r.stCycle

theorem SamePublished.of_eq {r r' : Regs} (h : r' = r) : SamePublished r r' := h ▸ ⟨rfl, rfl, rfl, rfl⟩

section EdgeWrites

variable {q : Ports} {r r' : Regs} {i : Instr}

theorem EdgeWrites.keeps_or_publishes (h : EdgeWrites q r i r') :
    SamePublished r r' ∨ ∃ x : Regs, r' = startSample x.phase x.cycle x := by
  cases h with
  | latch | keep | countUnit | lowerLine | raiseLine => exact .inl ⟨rfl, rfl, rfl, rfl⟩
  | publish x => exact .inr ⟨x, rfl⟩
  | stop hi x hx => rcases hx with rfl | rfl <;> exact .inl ⟨rfl, rfl, rfl, rfl⟩

/-! ## The other registers -/

theorem EdgeWrites.keeps_unwritten (h : EdgeWrites q r i r') :
    r'.stHighEnd = r.stHighEnd ∧ r'.stPeriodEnd = r.stPeriodEnd := by
  cases h with
  | latch | keep | countUnit | lowerLine | raiseLine => exact ⟨rfl, rfl⟩
  | publish x hx | stop hi x hx => rcases hx with rfl | rfl <;> exact ⟨rfl, rfl⟩

theorem EdgeWrites.keeps_config (h : EdgeWrites q r i r') (hi : ¬∃ tk st e p, i = .init tk st e p) :
    r'.cfgPinQ = r.cfgPinQ ∧ r'.cfgCarrierQ = r.cfgCarrierQ ∧ r'.cfgSineQ = r.cfgSineQ := by
  cases h with
  | latch h => exact absurd h hi
  | keep | countUnit | lowerLine | raiseLine => exact ⟨rfl, rfl, rfl⟩
  | publish x hx | stop hi x hx => rcases hx with rfl | rfl <;> exact ⟨rfl, rfl, rfl⟩

/-- `S_DONE` is written by the two stops alone. -/
theorem EdgeWrites.of_done (h : EdgeWrites q r i r') (hf : r'.fsm = sDone) :
    r.fsm = sDone ∨ (∃ e p, i = .armStop e p) ∨ i = .sampleStop := by
  cases h with
  | keep | countUnit => exact .inl hf
  | stop hi => exact .inr hi
  | latch | lowerLine | raiseLine | publish => simp at hf

end EdgeWrites

/-- What a step can do to the four published fields (10_state.md R28, 20_memory.md R60): keep them, reset every register, or
publish. -/
theorem step_keeps_or_publishes {s t : State} (h : step s = .next t) :
    SamePublished s.regs t.regs ∨ t.regs = Regs.reset ∨ ∃ x : Regs, t.regs = startSample x.phase x.cycle x := by
  rcases step_regs_cases h with ⟨hregs, -⟩ | ⟨-, hregs, -⟩ | ⟨-, -, i, -, hw⟩
  · exact .inl (.of_eq hregs)
  · exact .inr (.inl hregs)
  · exact hw.keeps_or_publishes.imp_right .inr

/-- No operation but RESET writes `ST_HIGHEND` or `ST_PERIODEND` (10_state.md R32). -/
theorem exec_keeps_unwritten {i : Instr} {s t : State} (h : exec i s = .next t) (hi : ¬IsReset i) :
    t.regs.stHighEnd = s.regs.stHighEnd ∧ t.regs.stPeriodEnd = s.regs.stPeriodEnd := by
  rcases exec_regs_cases h with ⟨hreset, -⟩ | ⟨-, -, hw⟩ | ⟨-, hregs, -⟩
  · exact absurd hreset hi
  · exact hw.keeps_unwritten
  · rw [hregs]; exact ⟨rfl, rfl⟩

/-- No operation but RESET and INIT writes the latched configuration (10_state.md R34). -/
theorem exec_keeps_config {i : Instr} {s t : State} (h : exec i s = .next t) (hi : ¬IsReset i)
    (hinit : ¬∃ tk st e p, i = .init tk st e p) :
    t.regs.cfgPinQ = s.regs.cfgPinQ ∧ t.regs.cfgCarrierQ = s.regs.cfgCarrierQ ∧
      t.regs.cfgSineQ = s.regs.cfgSineQ := by
  rcases exec_regs_cases h with ⟨hreset, -⟩ | ⟨-, -, hw⟩ | ⟨-, hregs, -⟩
  · exact absurd hreset hi
  · exact hw.keeps_config hinit
  · rw [hregs]; exact ⟨rfl, rfl, rfl⟩

/-- From INIT to the next reset a step keeps `pin_sel` (70_reset_and_hazards.md R211). -/
theorem step_keeps_pinSel {s t : State} (h : step s = .next t) (hs : s.regs.fsm ≠ sInit) (ht : t.regs.fsm ≠ sInit) :
    pinSel t = pinSel s := by
  rcases step_regs_cases h with ⟨hregs, -⟩ | ⟨-, hregs, -⟩ | ⟨-, -, i, hi, hw⟩
  · exact congrArg Regs.cfgPinQ hregs
  · rw [hregs] at ht
    exact absurd rfl ht
  · have hinit : ¬∃ tk st e p, i = .init tk st e p := by
      rintro ⟨tk, st, e, p, rfl⟩
      exact hs (fsm_of_fetch_init hi)
    exact (hw.keeps_config hinit).1

end Sys2Proof.Machine

namespace Sys2Proof.Claims

open Machine

/-- Settles O38, from the writes of an operation. -/
theorem highEndAndPeriodEndNeverWritten : Obligations.HighEndAndPeriodEndNeverWritten := by
  refine ⟨fun i s t h => ⟨exec_keeps_unwritten h, fun hi => ?_⟩, fun s t hhigh hperiod h => ?_⟩
  · rw [exec_reset_regs hi h]
    exact ⟨rfl, rfl⟩
  · rcases step_regs_cases h with ⟨hregs, -⟩ | ⟨-, hregs, -⟩ | ⟨-, -, i, -, hw⟩
    · rw [hregs]; exact ⟨hhigh, hperiod⟩
    · rw [hregs]; exact ⟨rfl, rfl⟩
    · exact ⟨hw.keeps_unwritten.1.trans hhigh, hw.keeps_unwritten.2.trans hperiod⟩

/-- Settles O40, from what a step can do to the published fields. -/
theorem publishedFieldsChangeTogether : Obligations.PublishedFieldsChangeTogether := by
  intro s t h
  rcases step_keeps_or_publishes h with hkeep | hreset | ⟨x, hpub⟩
  · exact .inl hkeep
  · rw [hreset]
    exact .inr (.inl ⟨rfl, rfl, rfl, rfl, rfl⟩)
  · rw [hpub]
    exact .inr (.inr ⟨rfl, startSample_stValue _ _ _, startSample_stDuty _ _ _, rfl, rfl⟩)

/-- Settles O41, from what a step can do to the published fields and the published duty. -/
theorem dutyIsAMultipleOf40 : Obligations.DutyIsAMultipleOf40 := by
  refine ⟨rfl, fun ph cyc r => ⟨pct_le _, startSample_stDuty ph cyc r⟩, ?_⟩
  intro s t hs h
  rcases step_keeps_or_publishes h with ⟨-, -, hkeep, -⟩ | hreset | ⟨x, hpub⟩
  · rwa [hkeep]
  · rw [hreset]
    exact ⟨0, Nat.zero_le _, rfl⟩
  · rw [hpub]
    exact ⟨_, pct_le _, startSample_stDuty _ _ _⟩

/-- Settles O44: INIT and RESET by their own writes, every other operation by its frame. -/
theorem configurationLatchedOnlyAtInit : Obligations.ConfigurationLatchedOnlyAtInit := by
  refine ⟨fun i s t h => ⟨?init, ?reset, ?other⟩, fun s t => step_keeps_pinSel, fun s => ?ports⟩
  case init =>
    rintro ⟨tk, st, e, p, rfl⟩
    obtain ⟨-, r, ho, rfl⟩ := (exec_next_iff rfl).mp h
    cases ho
    exact ⟨rfl, rfl, rfl⟩
  case reset =>
    intro hi
    rw [exec_reset_regs hi h]
    exact ⟨rfl, rfl, rfl⟩
  case other =>
    intro hi hinit
    exact exec_keeps_config h hi fun ⟨tk, st, e, p, he⟩ => hinit tk st e p he
  case ports => exact ⟨rfl, rfl, rfl, beq_iff_eq, exec_decodeRead _ s⟩

end Sys2Proof.Claims

/-! PROOFS, the end of a run (70_reset_and_hazards.md R219). -/

namespace Sys2Proof.Machine

/-- A step that ends in a final state began in one, or it performed one of the two stops. -/
theorem step_final_cases {s t : State} (h : step s = .next t) (ht : t.Final) :
    s.Final ∨ ∃ i, (fetch s).1 = some i ∧ ((∃ e p, i = .armStop e p) ∨ i = .sampleStop) := by
  obtain ⟨hr, hf⟩ := ht
  rcases step_regs_cases h with ⟨hregs, hreset⟩ | ⟨-, hregs, -⟩ | ⟨hs, -, i, hi, hw⟩
  · exact .inl ⟨hreset ▸ hr, hregs ▸ hf⟩
  · rw [hregs] at hf
    exact absurd hf (by decide)
  · exact (hw.of_done hf).imp (fun hdone => ⟨hs, hdone⟩) (fun hstop => ⟨i, hi, hstop⟩)

/-- A listed move without `stop` makes no run final. -/
theorem step_not_final {m : Move} {ms : List Move} {s t : State} (hstop : m.isStop = false) (hs : ¬s.Final)
    (h : step { s with moves := m :: ms } = .next t) : ¬t.Final := by
  intro ht
  rcases step_final_cases h ht with hfinal | ⟨i, hi, hend⟩
  · exact hs hfinal
  · exact Bool.noConfusion (hstop.symm.trans (isStop_of_fetch hi hend))

/-- A listed move without a reset ends no power-up state (10_state.md R42). -/
theorem step_keeps_noReset {m : Move} {ms : List Move} {s t : State} (hreset : m.isReset = false)
    (hs : s.hasReset = false) (h : step { s with moves := m :: ms } = .next t) : t.hasReset = false := by
  rcases step_regs_cases h with ⟨-, hr⟩ | ⟨hm, -⟩ | ⟨hr, -⟩
  · exact hr.trans hs
  · exact Bool.noConfusion (hreset.symm.trans hm)
  · exact Bool.noConfusion (hs.symm.trans hr)

end Sys2Proof.Machine

namespace Sys2Proof.Claims

open Machine

/-- Settles O51: of a step by the operation it performs, of a list of moves by induction over it. -/
theorem onlyTheStopsEndARun : Obligations.OnlyTheStopsEndARun := by
  refine ⟨?armStop, ?sampleStop, ?onlyStops, ?noStop, ?noReset⟩
  case armStop => intro e p s hr; exact ⟨_, exec_next_of_ok rfl hr rfl, hr, rfl⟩
  case sampleStop => intro s hr; exact ⟨_, exec_next_of_ok rfl hr rfl, hr, rfl⟩
  case onlyStops =>
    intro s t h ht
    rcases step_final_cases h ht with hs | ⟨i, hi, ⟨e, p, rfl⟩ | rfl⟩
    · exact .inl hs
    · exact .inr (.inl ⟨e, p, hi⟩)
    · exact .inr (.inr hi)
  case noStop =>
    intro ms s t hs hms h
    exact playMoves_induction (P := fun u => ¬u.Final) (fun m hm _ _ _ => step_not_final (hms m hm))
      (fun _ hu => hu) hs h
  case noReset =>
    intro ms s t hs hms h ht
    have hkept : t.hasReset = false :=
      playMoves_induction (P := fun u => u.hasReset = false) (fun m hm _ _ _ => step_keeps_noReset (hms m hm))
        (fun _ hu => hu) hs h
    exact Bool.noConfusion (hkept.symm.trans ht.1)

end Sys2Proof.Claims

/-! PROOFS, the status port: each word holds its register's number (30_encoding.md R81, 20_memory.md R58). -/

namespace Sys2Proof.Machine

section Words

variable (r : Regs)

@[simp] theorem wordIndex_toNat : (wordIndex r).toNat = r.stIndex.toNat := BitVec.toNat_setWidth_of_le (by decide)
@[simp] theorem wordValue_toInt : (wordValue r).toInt = r.stValue.toInt := BitVec.toInt_signExtend_of_le (by decide)
@[simp] theorem wordDuty_toNat : (wordDuty r).toNat = r.stDuty.toNat := BitVec.toNat_setWidth_of_le (by decide)
@[simp] theorem wordPeriod_toNat : (wordPeriod r).toNat = r.stPeriod.toNat := BitVec.toNat_setWidth_of_le (by decide)
@[simp] theorem wordHighEnd_toNat : (wordHighEnd r).toNat = r.stHighEnd.toNat :=
  BitVec.toNat_setWidth_of_le (by decide)
@[simp] theorem wordPeriodEnd_toNat : (wordPeriodEnd r).toNat = r.stPeriodEnd.toNat :=
  BitVec.toNat_setWidth_of_le (by decide)

/-- An index word is an 11-bit number (20_memory.md R63). -/
theorem wordIndex_le : (wordIndex r).toNat ≤ 2047 := by
  have hlt := r.stIndex.isLt
  rw [wordIndex_toNat]
  omega

end Words

end Sys2Proof.Machine

namespace Sys2Proof.Claims

open Machine

/-- Settles O24: a read samples the word of its register (`sampleWord`), which holds the register's number. -/
theorem readsGiveTheirRegister : Obligations.ReadsGiveTheirRegister :=
  ⟨fun s => ⟨_, rfl, wordIndex_toNat s.regs, rfl⟩,
   fun s => ⟨_, rfl, wordValue_toInt s.regs, rfl⟩,
   fun s => ⟨_, rfl, wordDuty_toNat s.regs, rfl⟩,
   fun s => ⟨_, rfl, wordPeriod_toNat s.regs, rfl⟩,
   fun s => ⟨_, rfl, wordHighEnd_toNat s.regs, rfl⟩,
   fun s => ⟨_, rfl, wordPeriodEnd_toNat s.regs, rfl⟩,
   fun _ => ⟨_, rfl, rfl, rfl⟩,
   fun _ => ⟨_, rfl, rfl, rfl⟩,
   exec_decodeRead⟩

/-- Settles O25: in every state, so in those a run reaches, the word of address 0 is an index. -/
theorem indexReadStaysInRange : Obligations.IndexReadStaysInRange := by
  intro ms s t _
  exact ⟨_, exec_decodeRead 0#3 t, wordIndex_le t.regs⟩

end Sys2Proof.Claims

/-! PROOFS, progress: a state with the invariants completes every move (60_exceptions.md R180, 10_state.md R40). -/

namespace Sys2Proof.Machine

/-- Equal decode words have equal fields (30_encoding.md R71). -/
theorem packDecodeWord_inj {r t s e p r' t' s' e' p' : Bool} {f f' : FsmCode}
    (h : packDecodeWord r t s f e p = packDecodeWord r' t' s' f' e' p') :
    r = r' ∧ t = t' ∧ s = s' ∧ f = f' ∧ e = e' ∧ p = p' :=
  ⟨by simpa using congrArg dwRst h, by simpa using congrArg dwTick h, by simpa using congrArg dwStop h,
   by simpa using congrArg dwFsm h, by simpa using congrArg dwRemIsOne h, by simpa using congrArg dwPIsTwo h⟩

/-- While units are counted, one or two of them are left (10_state.md R40, I2). -/
theorem Regs.Inv.rem_cases {r : Regs} (h : r.Inv) (hf : r.fsm = sHigh ∨ r.fsm = sLow) :
    r.rem = 1#2 ∨ r.rem = 2#2 := by
  have hrem : ∀ len rem : BitVec 2,
      len = 1#2 ∨ len = 2#2 → 1#2 ≤ rem ∧ rem ≤ len → rem = 1#2 ∨ rem = 2#2 := by decide
  obtain ⟨hon, hoff, -⟩ := h.i2 hf
  rcases hf with hf | hf
  · exact hrem _ _ hon (h.i2High hf)
  · exact hrem _ _ hoff (h.i2Low hf)

/-- Where the invariants hold and the bit `rem_is_one` is 0, a unit can be counted down. -/
theorem Regs.Inv.countDown_ok {r : Regs} (h : r.Inv) (hf : r.fsm = sHigh ∨ r.fsm = sLow) (he : remIsOne r = false) :
    ∃ r', countDown r = .ok r' := by
  have hrem : r.rem = 2#2 :=
    (h.rem_cases hf).resolve_left fun h1 => Bool.noConfusion (he.symm.trans (remIsOne_iff.mpr h1))
  exact ⟨_, countDown_ok_iff.mpr ⟨hrem, rfl⟩⟩

/-- Where the invariants hold and the bit `p_is_two` is 0, the next pulse can begin. -/
theorem Regs.Inv.nextPulse_ok {r : Regs} (h : r.Inv) (hf : r.fsm = sLow) (hp : pIsTwo r = false) :
    ∃ r', nextPulse r = .ok r' := by
  obtain ⟨hon, -, hcases⟩ := h.i2 (.inr hf)
  have hp' : r.p = 0#2 ∨ r.p = 1#2 :=
    (or_assoc.mpr hcases).resolve_right fun h2 => Bool.noConfusion (hp.symm.trans (pIsTwo_iff.mpr h2))
  exact ⟨_, nextPulse_ok_iff.mpr ⟨hp', hon, rfl⟩⟩

/-- The operation selected by registers with the invariants succeeds: the decode word's bits rule out the four invariant
faults, and the legal code rules out ILLEGAL_STATE (60_exceptions.md R181). -/
theorem Regs.Inv.edgeOp_ok {r : Regs} {q : Ports} {i : Instr} {rst tick stop : Bool} (h : r.Inv)
    (henc : encode i = .edge (packDecodeWord rst tick stop r.fsm (remIsOne r) (pIsTwo r))) :
    ∃ r', edgeOp i q r = .ok r' := by
  cases i with
  | highCount st p =>
    obtain ⟨-, -, -, hf, he, -⟩ := packDecodeWord_inj (OpWord.edge.inj henc)
    exact h.countDown_ok (.inl hf.symm) he.symm
  | lowCount st p =>
    obtain ⟨-, -, -, hf, he, -⟩ := packDecodeWord_inj (OpWord.edge.inj henc)
    exact h.countDown_ok (.inr hf.symm) he.symm
  | highEnd st p =>
    obtain ⟨-, -, -, hf, -, -⟩ := packDecodeWord_inj (OpWord.edge.inj henc)
    obtain ⟨-, hoff, -⟩ := h.i2 (.inl hf.symm)
    exact ⟨_, endHigh_ok_iff.mpr ⟨hoff, rfl⟩⟩
  | pulseNext st =>
    obtain ⟨-, -, -, hf, -, hp⟩ := packDecodeWord_inj (OpWord.edge.inj henc)
    exact h.nextPulse_ok hf.symm hp.symm
  | illegalState5 | illegalState6 | illegalState7 =>
    obtain ⟨-, -, -, hf, -, -⟩ := packDecodeWord_inj (OpWord.edge.inj henc)
    have hlegal := h.i1
    rw [← hf] at hlegal
    exact absurd hlegal (by decide)
  | init | armStart | armStop | sampleNext | sampleStop | holdArm | holdHigh | holdLow | doneHold | reset | rdIndex
  | rdValue | rdDuty | rdPeriod | rdHighEnd | rdPeriodEnd | rdCycle | rdRsvd => exact ⟨_, rfl⟩

/-- A state with the invariants steps to a next state, whichever move it takes. -/
theorem State.Inv.step_next {s : State} (hs : s.Inv) : ∃ t, step s = .next t := by
  unfold step
  rcases hf : fetch s with ⟨_ | i, u⟩
  · exact ⟨u, rfl⟩
  · have hsel : (fetch s).1 = some i := congrArg Prod.fst hf
    obtain rfl : (fetch s).2 = u := congrArg Prod.snd hf
    rcases exec_forms i (fetch s).2 with ⟨-, he⟩ | ⟨-, w, he⟩ | ⟨hi, he⟩
    · exact ⟨_, he⟩
    · exact ⟨_, he⟩
    · obtain ⟨rst, tick, stop, -, henc⟩ := fetch_fsm hsel hi
      obtain ⟨r, ho⟩ := hs.2.edgeOp_ok henc
      exact ⟨_, exec_next_of_ok he ((fetch_hasReset s).trans hs.1) ((fetch_regs s).symm ▸ ho)⟩

/-- A state with the invariants completes every list of moves, in a state with the invariants. -/
theorem State.Inv.playMoves_next {s : State} (hs : s.Inv) (ms : List Move) :
    ∃ t, playMoves ms s = .next t ∧ t.Inv := by
  induction ms generalizing s with
  | nil => exact ⟨_, rfl, hs⟩
  | cons m ms ih =>
    have hlisted : State.Inv { s with moves := m :: ms } := hs
    obtain ⟨u, hu⟩ := hlisted.step_next
    rw [playMoves_cons, hu]
    exact ih (step_keeps_inv hlisted hu)

end Sys2Proof.Machine

/-! PROOFS, the pulse counter and its published copy, short of a wrap (20_memory.md R62, 41_pwm_sequencer.md R149). -/

namespace Sys2Proof.Machine

/-- What one move without a reset can do to the pulse counter and to `ST_CYCLE`: a tick may count one pulse, and
`ST_CYCLE` stays or takes the count that is then reached (41_pwm_sequencer.md R141). -/
structure CountsPulse (tick : Bool) (r r' : Regs) : Prop where
  cycle : r'.cycle = r.cycle ∨ (tick = true ∧ r'.cycle = r.cycle + 1#64)
  stCycle : r'.stCycle = r.stCycle ∨ r'.stCycle = r'.cycle

theorem CountsPulse.of_eq {tick : Bool} {r r' : Regs} (h : r' = r) : CountsPulse tick r r' :=
  h ▸ ⟨.inl rfl, .inl rfl⟩

/-- An edge without `rst`, row by row of the transition table (41_pwm_sequencer.md R146). -/
theorem edge_countsPulse {s t : State} (hrst : s.ports.rst = false)
    (h : exec (decodeEdge (decodeWordOf s)) s = .next t) : CountsPulse s.ports.tick s.regs t.regs := by
  obtain ⟨-, hrow⟩ := edge_next_cases hrst h
  rcases hrow with ⟨-, rfl⟩ | ⟨-, -, rfl⟩ | ⟨-, -, -, rfl⟩ | ⟨-, -, -, rfl⟩ | ⟨-, -, -, rfl⟩ |
    ⟨-, -, -, -, rfl⟩ | ⟨-, ht, -, -, -, rfl⟩ | ⟨-, ht, -, -, -, rfl⟩ | ⟨-, ht, -, -, -, rfl⟩
  -- INIT, the holds
  · exact ⟨.inl rfl, .inl rfl⟩
  · exact .of_eq rfl
  -- ARM_START, ARM_STOP
  · exact ⟨.inl rfl, .inr rfl⟩
  · exact ⟨.inl rfl, .inl rfl⟩
  -- HIGH_COUNT and LOW_COUNT, HIGH_END
  · exact ⟨.inl rfl, .inl rfl⟩
  · exact ⟨.inl rfl, .inl rfl⟩
  -- PULSE_NEXT, SAMPLE_NEXT, SAMPLE_STOP
  · exact ⟨.inr ⟨ht, rfl⟩, .inl rfl⟩
  · exact ⟨.inr ⟨ht, rfl⟩, .inr rfl⟩
  · exact ⟨.inr ⟨ht, rfl⟩, .inl rfl⟩

/-- A step whose move is no reset. -/
theorem step_countsPulse {s t : State} (h : step s = .next t) (hm : (nextMove s).1.isReset = false) :
    CountsPulse (nextMove s).1.isTick s.regs t.regs := by
  rcases step_next_cases h with ⟨i, hi, he⟩ | ⟨-, rfl⟩
  · rcases fetch_some_cases hi with ⟨a, rfl⟩ | ⟨rst, tick, stop, hedge, rfl, -⟩
    · rw [exec_decodeRead] at he
      cases he
      exact .of_eq (fetch_regs s)
    · have hports : (fetch s).2.ports = drive (.edge rst tick stop) (nextMove s).2.ports := hedge ▸ rfl
      rw [hedge] at hm ⊢
      obtain rfl : rst = false := hm
      have hcounts := edge_countsPulse (congrArg Ports.rst hports) he
      rwa [hports, fetch_regs] at hcounts
  · exact .of_eq (fetch_regs s)

/-- Short of a wrap the counter gains at most the tick, and `ST_CYCLE` goes up to it at most. -/
theorem CountsPulse.bounds {tick : Bool} {r r' : Regs} (h : CountsPulse tick r r') (hle : r.stCycle ≤ r.cycle)
    (hwrap : r.cycle.toNat + tick.toNat < 2 ^ 64) :
    r'.cycle.toNat ≤ r.cycle.toNat + tick.toNat ∧ r.stCycle ≤ r'.stCycle ∧ r'.stCycle ≤ r'.cycle := by
  have hcycle : r.cycle.toNat ≤ r'.cycle.toNat ∧ r'.cycle.toNat ≤ r.cycle.toNat + tick.toNat := by
    rcases h.cycle with hc | ⟨rfl, hc⟩ <;> rw [hc]
    · omega
    · rw [Bool.toNat_true] at hwrap ⊢
      rw [BitVec.toNat_add_of_lt hwrap, BitVec.toNat_ofNat]
      omega
  rw [BitVec.le_def] at hle ⊢
  rw [BitVec.le_def]
  rcases h.stCycle with hst | hst <;> rw [hst] <;> omega

theorem tickCount_cons (m : Move) (ms : List Move) : tickCount (m :: ms) = m.isTick.toNat + tickCount ms := by
  rw [tickCount, tickCount, List.countP_cons, Nat.add_comm]
  cases m.isTick <;> rfl

/-- Short of a wrap and without a reset, moves keep `ST_CYCLE` at or below the counter and never lower it. -/
theorem playMoves_stCycle_le {ms : List Move} {s t : State} (hle : s.regs.stCycle ≤ s.regs.cycle)
    (hwrap : s.regs.cycle.toNat + tickCount ms < 2 ^ 64) (hms : NoResetIn ms) (h : playMoves ms s = .next t) :
    s.regs.stCycle ≤ t.regs.stCycle ∧ t.regs.stCycle ≤ t.regs.cycle := by
  induction ms generalizing s with
  | nil => cases h; exact ⟨BitVec.le_refl _, hle⟩
  | cons m ms ih =>
    obtain ⟨u, hu, hrest⟩ := playMoves_cons_next h
    obtain ⟨hm, hms'⟩ := List.forall_mem_cons.mp hms
    have hstep : CountsPulse m.isTick s.regs u.regs := step_countsPulse hu hm
    rw [tickCount_cons] at hwrap
    obtain ⟨hcycle, hup, hle'⟩ := hstep.bounds hle (by omega)
    obtain ⟨hup', hle''⟩ := ih hle' (by omega) hms' hrest
    exact ⟨BitVec.le_trans hup hup', hle''⟩

end Sys2Proof.Machine

namespace Sys2Proof.Claims

open Machine

/-- Settles O52: the moves complete by the invariants, and `ST_CYCLE` rises by induction over them. -/
theorem publishedCycleDoesNotDecrease : Obligations.PublishedCycleDoesNotDecrease := by
  intro ms s hs hle hwrap hms
  obtain ⟨t, ht, -⟩ := hs.playMoves_next ms
  exact ⟨t, ht, playMoves_stCycle_le hle hwrap hms ht⟩

end Sys2Proof.Claims

/-! PROOFS, encoding: `decode` and `encode` undo each other, and the rows of the opcode map part the decode words
(30_encoding.md R70 to R78). -/

namespace Sys2Proof

open Machine

/-! ## The decoder and the encoder -/

/-- The word packed for an instruction is in its row, free bits included (30_encoding.md R73, R77). -/
theorem decode_encode (i : Instr) : decode (encode i) = i := by
  cases i with
  | reset t s f e p => exact decodeEdge_rst t s f e p
  | init t s e p => exact decodeEdge_init t s e p
  | holdArm s e p => exact decodeEdge_arm_idle s e p
  | armStart e p => exact decodeEdge_arm_tick false e p
  | armStop e p => exact decodeEdge_arm_tick true e p
  | holdHigh s e p => exact decodeEdge_high_idle s e p
  | highCount s p => exact decodeEdge_high_tick s false p
  | highEnd s p => exact decodeEdge_high_tick s true p
  | holdLow s e p => exact decodeEdge_low_idle s e p
  | lowCount s p => exact decodeEdge_low_tick s false p
  | pulseNext s => exact decodeEdge_low_tick s true false
  | sampleNext => exact decodeEdge_low_tick false true true
  | sampleStop => exact decodeEdge_low_tick true true true
  | doneHold t s e p => exact decodeEdge_done t s e p
  | illegalState5 t s e p => exact decodeEdge_illegal5 t s e p
  | illegalState6 t s e p => exact decodeEdge_illegal6 t s e p
  | illegalState7 t s e p => exact decodeEdge_illegal7 t s e p
  | rdIndex | rdValue | rdDuty | rdPeriod | rdHighEnd | rdPeriodEnd | rdCycle | rdRsvd => rfl

/-- The encoder writes different words for different instructions. -/
theorem encode_injective : Function.Injective encode := Function.LeftInverse.injective decode_encode

theorem encode_decodeRead (a : PortAddr) : encode (decodeRead a) = .read a := by revert a; decide

theorem encode_decode (op : OpWord) : encode (decode op) = op := by
  cases op with
  | edge w => exact encode_decodeEdge w
  | read a => exact encode_decodeRead a

/-- The reads, and no other instruction, are encoded as addresses (30_encoding.md R70). -/
theorem format_eq_read_iff (i : Instr) : i.format = .read ↔ ∃ a, encode i = .read a := by
  cases i <;> simp [Instr.format, encode]

/-! ## The rows of the opcode map -/

/-- The word of an instruction meets the mask and match of the instruction's own row. -/
theorem row_selects_encode (i : Instr) : i.row.selects (encode i) = true := by
  cases i with
  | reset t s f e p => exact Laws.InRow.reset t s f e p
  | init t s e p => exact Laws.InRow.init t s e p
  | holdArm s e p => exact Laws.InRow.holdArm s e p
  | armStart e p => exact Laws.InRow.armStart e p
  | armStop e p => exact Laws.InRow.armStop e p
  | holdHigh s e p => exact Laws.InRow.holdHigh s e p
  | highCount s p => exact Laws.InRow.highCount s p
  | highEnd s p => exact Laws.InRow.highEnd s p
  | holdLow s e p => exact Laws.InRow.holdLow s e p
  | lowCount s p => exact Laws.InRow.lowCount s p
  | pulseNext s => exact Laws.InRow.pulseNext s
  | sampleNext => exact Laws.InRow.sampleNext
  | sampleStop => exact Laws.InRow.sampleStop
  | doneHold t s e p => exact Laws.InRow.doneHold t s e p
  | illegalState5 t s e p => exact Laws.InRow.illegalState5 t s e p
  | illegalState6 t s e p => exact Laws.InRow.illegalState6 t s e p
  | illegalState7 t s e p => exact Laws.InRow.illegalState7 t s e p
  | rdIndex => exact Laws.InRow.rdIndex
  | rdValue => exact Laws.InRow.rdValue
  | rdDuty => exact Laws.InRow.rdDuty
  | rdPeriod => exact Laws.InRow.rdPeriod
  | rdHighEnd => exact Laws.InRow.rdHighEnd
  | rdPeriodEnd => exact Laws.InRow.rdPeriodEnd
  | rdCycle => exact Laws.InRow.rdCycle
  | rdRsvd => exact Laws.InRow.rdRsvd

theorem decodeEdge_row_selects (w : DecodeWord) : (decodeEdge w).row.selects (.edge w) = true := by
  have h := row_selects_encode (decodeEdge w)
  rwa [encode_decodeEdge] at h

/-- An instruction encoded as a decode word belongs to a row of R73. -/
theorem row_mem_fsmRows {i : Instr} {w : DecodeWord} (h : encode i = .edge w) : i.row ∈ fsmRows := by
  cases i with
  | rdIndex | rdValue | rdDuty | rdPeriod | rdHighEnd | rdPeriodEnd | rdCycle | rdRsvd => cases h
  | _ => simp [Instr.row, fsmRows]

/-- Two rows whose matches differ on a bit that both masks keep share no decode word. -/
theorem OpcodeRow.not_selects_of_differ {row row' : OpcodeRow} {w : DecodeWord}
    (hdiffer : row.pattern &&& row'.mask ≠ row'.pattern &&& row.mask) (h : row.selects (.edge w) = true) :
    row'.selects (.edge w) = false := by
  refine Bool.eq_false_iff.mpr fun h' => hdiffer ?_
  simp only [OpcodeRow.selects, rowMatches, Bool.and_eq_true, beq_iff_eq] at h h'
  rw [← h.2, ← h'.2, BitVec.and_assoc, BitVec.and_assoc, BitVec.and_comm row.mask]

/-- Any two rows of R73 differ on a bit that both masks keep. -/
theorem fsmRows_differ :
    fsmRows.Pairwise fun row row' => row.pattern &&& row'.mask ≠ row'.pattern &&& row.mask := by decide

/-- Where no two elements of a list meet `p` together, one that does is all that `p` keeps. -/
theorem filter_eq_singleton {α : Type} {p : α → Bool} {l : List α} {a : α}
    (hl : l.Pairwise fun b c => p b = true → p c = false) (ha : a ∈ l) (hp : p a = true) : l.filter p = [a] := by
  induction l with
  | nil => cases ha
  | cons b l ih =>
    obtain ⟨hb, hl'⟩ := List.pairwise_cons.mp hl
    rcases List.mem_cons.mp ha with rfl | hmem
    · rw [List.filter_cons_of_pos hp, List.filter_eq_nil_iff.mpr fun c hc => by simp [hb c hc hp]]
    · have hnot : ¬p b = true := fun h => by simp [hb a hmem h] at hp
      rw [List.filter_cons_of_neg hnot, ih hl' hmem]

/-- A decode word is in the row of the operation that the decoder answers and in no other (30_encoding.md R73). -/
theorem fsmRows_filter_selects (w : DecodeWord) :
    fsmRows.filter (fun row => row.selects (.edge w)) = [(decodeEdge w).row] :=
  filter_eq_singleton (fsmRows_differ.imp OpcodeRow.not_selects_of_differ) (row_mem_fsmRows (encode_decodeEdge w))
    (decodeEdge_row_selects w)

set_option maxRecDepth 20000 in
/-- The counts of 30_encoding.md R74. -/
theorem fsmRows_word_counts :
    fsmRows.map (fun row => ((List.range 256).map (BitVec.ofNat 8)).countP (fun w => row.selects (.edge w))) =
      [128, 16, 8, 4, 4, 8, 4, 4, 8, 4, 2, 1, 1, 16, 16, 16, 16] := by decide

end Sys2Proof

namespace Sys2Proof.Machine

/-! ## The table index and the table pattern -/

theorem sineIndexOf_getLsbD (ph : PhaseWord) (k : Nat) :
    (sineIndexOf ph).getLsbD k = (decide (k < 11) && ph.getLsbD (8 + k)) :=
  BitVec.getLsbD_extractLsb' ..

theorem sineIndexOf_toNat (ph : PhaseWord) : (sineIndexOf ph).toNat = (ph.toNat >>> 8) &&& 0x7FF := by
  rw [sineIndexOf, BitVec.extractLsb'_toNat]
  exact (Nat.and_two_pow_sub_one_eq_mod _ 11).symm

/-- The index depends on bits 8 to 18 of the phase alone (40_sample_pipeline.md R102). -/
theorem sineIndexOf_congr {ph ph' : PhaseWord} (h : ∀ k, 8 ≤ k → k ≤ 18 → ph.getLsbD k = ph'.getLsbD k) :
    sineIndexOf ph = sineIndexOf ph' := by
  refine BitVec.eq_of_getLsbD_eq fun k hk => ?_
  rw [sineIndexOf_getLsbD, sineIndexOf_getLsbD, h (8 + k) (by omega) (by omega)]

/-- Bit 15 tells the upper half of the patterns. -/
theorem pattern_bit15 (b : SinePattern) : b.getLsbD 15 = decide (32768 ≤ b.toNat) := BitVec.msb_eq_decide b

/-- `signed16` by cases on bit 15 (00_scope.md R9). -/
theorem signed16_eq (b : SinePattern) : signed16 b = if b.getLsbD 15 then (b.toNat : Int) - 65536 else b.toNat :=
  BitVec.toInt_eq_msb_cond b

/-- The number of a pattern with bit 15 inverted. -/
theorem toNat_bit15_inverted (b : SinePattern) :
    (BitVec.ofBool (!b.getLsbD 15) ++ b.extractLsb' 0 15).toNat = (!b.getLsbD 15).toNat * 32768 + b.toNat % 32768 := by
  have hlow : (b.extractLsb' 0 15).toNat = b.toNat % 32768 := BitVec.extractLsb'_toNat ..
  rw [BitVec.toNat_append, ← Nat.shiftLeft_add_eq_or_of_lt (BitVec.isLt _), hlow, BitVec.toNat_ofBool,
    Nat.shiftLeft_eq]

theorem normalise_signed16 (b : SinePattern) :
    normalise (signed16 b) = (BitVec.ofBool (!b.getLsbD 15) ++ b.extractLsb' 0 15).toNat := by
  have hnrm := normalise_eq (signed16_bounds b).1
  have hval := signed16_eq b
  have hlt := b.isLt
  rw [toNat_bit15_inverted]
  rw [pattern_bit15] at hval ⊢
  by_cases hb : 32768 ≤ b.toNat
  · rw [decide_eq_true hb] at hval ⊢
    simp only [if_true, Bool.not_true, Bool.toNat_false] at hval ⊢
    omega
  · rw [decide_eq_false hb] at hval ⊢
    simp only [Bool.false_eq_true, if_false, Bool.not_false, Bool.toNat_true] at hval ⊢
    omega

theorem normalise_signed16_le (b : SinePattern) : normalise (signed16 b) ≤ 65535 := by
  have hbounds := signed16_bounds b
  have hnrm := normalise_eq hbounds.1
  omega

end Sys2Proof.Machine

namespace Sys2Proof.Claims

open Machine

/-- Settles O5, by the row that each encoded word selects. -/
theorem decodeOfEncode : Obligations.DecodeOfEncode :=
  ⟨fun i _ => decode_encode i, fun _ _ _ _ h => encode_injective h⟩

/-- Settles O6: the format is that of the encoded word, and the encoded word is `op`. -/
theorem encodeOfDecode : Obligations.EncodeOfDecode := by
  intro op
  have hformat := format_eq_read_iff (decode op)
  rw [encode_decode] at hformat
  exact ⟨encode_decode op, rfl, hformat⟩

/-- Settles O27, by the index's bits and its number; the corner values compute. -/
theorem indexIsPhaseBits18To8 : Obligations.IndexIsPhaseBits18To8 :=
  ⟨fun ph => ⟨sineIndexOf_toNat ph, rfl⟩, fun _ _ h => sineIndexOf_congr h, rfl, rfl, rfl, rfl, rfl, rfl⟩

/-- Settles O28, by cases on bit 15; the corner values compute. -/
theorem normalisedIsBit15Inverted : Obligations.NormalisedIsBit15Inverted :=
  ⟨fun b => ⟨normalise_signed16 b, normalise_eq (signed16_bounds b).1, normalise_signed16_le b, signed16_eq b⟩,
   rfl, rfl, rfl, rfl⟩

/-- Settles O1: the fields of a packed word, and what its two flag bits test. -/
theorem decodeWordHoldsInputsAndState : Obligations.DecodeWordHoldsInputsAndState := fun _ =>
  ⟨dwRst_pack .., dwTick_pack .., dwStop_pack .., dwFsm_pack ..,
   (Bool.eq_iff_iff.mp (dwRemIsOne_pack ..)).trans remIsOne_iff,
   (Bool.eq_iff_iff.mp (dwPIsTwo_pack ..)).trans pIsTwo_iff⟩

/-- Settles O2: the rows exclude each other, and the decoder answers with one that matches. -/
theorem eachDecodeWordMatchesOneRow : Obligations.EachDecodeWordMatchesOneRow :=
  ⟨fsmRows_filter_selects, fsmRows_word_counts⟩

/-- Settles O3, by the operation that a packed word selects in each state. -/
theorem inputPriority : Obligations.InputPriority := by
  refine ⟨?reset, ?init, ?done, ?idle, ?arm, ?next, ?stop, ?high, ?count, ?pulse⟩
  case reset => intro t st f e p; rw [decodeEdge_rst]; rfl
  case init => intro t st e p; rw [decodeEdge_init]; rfl
  case done => intro t st e p; rw [decodeEdge_done]; rfl
  case idle =>
    intro st e p
    rw [decodeEdge_arm_idle, decodeEdge_high_idle, decodeEdge_low_idle]
    exact ⟨rfl, rfl, rfl⟩
  case arm => intro e p; rw [decodeEdge_arm_tick, decodeEdge_arm_tick]; exact ⟨rfl, rfl⟩
  case next => rw [decodeEdge_low_tick]; rfl
  case stop => rw [decodeEdge_low_tick]; rfl
  case high => intro st p; rw [decodeEdge_high_tick, decodeEdge_high_tick]; exact ⟨rfl, rfl⟩
  case count => intro st p; rw [decodeEdge_low_tick]; rfl
  case pulse => intro st; rw [decodeEdge_low_tick]; rfl

/-- Settles O4: the map computes, and a read completes in every state (`exec_decodeRead`). -/
theorem readAddressSelectsItsRead : Obligations.ReadAddressSelectsItsRead :=
  ⟨rfl, rfl, rfl, rfl, rfl, rfl, rfl, rfl, exec_decodeRead 7#3, fun a s => ⟨_, exec_decodeRead a s⟩⟩

/-- Settles O7: ten words of fixed bits, each decoded. -/
theorem wordsOfTheVectors : Obligations.WordsOfTheVectors := by
  unfold Obligations.WordsOfTheVectors
  decide

end Sys2Proof.Claims

/-! PROOFS, the sample pipeline: the percentage by sample value, the times by percentage, and what START_SAMPLE publishes
(40_sample_pipeline.md R105 to R115). -/

namespace Sys2Proof.Machine

open Claims

/-! ## The percentage of a sample value -/

theorem le_percentOf_iff (k n : Nat) : k ≤ percentOf n ↔ k * 65536 ≤ n * 100 := by
  rw [percentOf_eq, Nat.le_div_iff_mul_le (by decide)]

/-- The least sample value with the percentage `k` (R115). -/
def leastSample (k : Nat) : Int := ((k * 65536 + 99) / 100 : Nat) - 32768

theorem neg_32768_le_leastSample (k : Nat) : -32768 ≤ leastSample k := by
  unfold leastSample; omega

theorem leastSample_lt_succ (k : Nat) : leastSample k < leastSample (k + 1) := by
  unfold leastSample; omega

/-- A sample value reaches a percentage exactly from the least such value on. -/
theorem leastSample_le_iff {v : Int} (hv : -32768 ≤ v) (k : Nat) :
    leastSample k ≤ v ↔ k ≤ percentOf (normalise v) := by
  have hnrm := normalise_eq hv
  rw [le_percentOf_iff, leastSample]
  omega

theorem percentOf_normalise_leastSample (k : Nat) : percentOf (normalise (leastSample k)) = k := by
  have hreach := leastSample_le_iff (neg_32768_le_leastSample k)
  have hnext : ¬k + 1 ≤ percentOf (normalise (leastSample k)) :=
    mt (hreach (k + 1)).mpr (Int.not_le.mpr (leastSample_lt_succ k))
  exact Nat.le_antisymm (Nat.le_of_not_lt hnext) ((hreach k).mp (Int.le_refl _))

theorem percentOf_normalise_mono {v v' : Int} (hv : -32768 ≤ v) (h : v ≤ v') :
    percentOf (normalise v) ≤ percentOf (normalise v') :=
  (leastSample_le_iff (hv.trans h) _).mp (((leastSample_le_iff hv _).mpr le_rfl).trans h)

theorem percentOf_normalise_le {v : Int} (hv : -32768 ≤ v) (h : v ≤ 32767) : percentOf (normalise v) ≤ 99 := by
  have htop : percentOf (normalise 32767) = 99 := rfl
  exact htop ▸ percentOf_normalise_mono hv h

/-! ## The times of a percentage -/

theorem clampPercent_of_mid {p : Nat} (hlo : 20 ≤ p) (hhi : p ≤ 80) : clampPercent p = p := by
  unfold clampPercent; omega

/-- The clamp to 20 to 80 moves no percentage across a class boundary between them (R110). -/
theorem clampPercent_le_iff {k : Nat} (hlo : 20 ≤ k) (hhi : k < 80) (p : Nat) : clampPercent p ≤ k ↔ p ≤ k := by
  unfold clampPercent; omega

theorem onTime_clamp_eq (p : Nat) : onTime (clampPercent p) = if p ≤ 66 then 1 else 2 := by
  simp only [onTime_eq (clampPercent_bounds p).2, clampPercent_le_iff (k := 66) (by decide) (by decide)]

theorem offTime_clamp_eq (p : Nat) : offTime (clampPercent p) = if p ≤ 33 then 2 else 1 := by
  simp only [offTime_eq (clampPercent_bounds p).1, clampPercent_le_iff (k := 33) (by decide) (by decide)]

theorem publishedDuty_mono {p p' : Nat} (h : p ≤ p') : publishedDuty p ≤ publishedDuty p' := by
  rw [publishedDuty_eq, publishedDuty_eq]
  exact Nat.mul_le_mul_left 40 h

theorem onTime_mono {c c' : Nat} (h : c ≤ c') : onTime c ≤ onTime c' := by
  unfold onTime; omega

theorem offTime_anti {c c' : Nat} (h : c ≤ c') : offTime c' ≤ offTime c := by
  unfold offTime; omega

/-! ## The fields that START_SAMPLE writes -/

theorem clampPercent_patternPercent (b : SinePattern) : clampPercent (patternPercent b) = clamped b := by
  rw [← pct_eq_patternPercent, clampPercent, clamped]
  split_ifs <;> omega

theorem ofNat_onTime_clamp (b : SinePattern) :
    BitVec.ofNat 2 (onTime (clampPercent (patternPercent b))) = if clamped b ≤ 66 then 1#2 else 2#2 := by
  rw [onTime_eq (clampPercent_bounds _).2, clampPercent_patternPercent, apply_ite (BitVec.ofNat 2)]

theorem ofNat_offTime_clamp (b : SinePattern) :
    BitVec.ofNat 2 (offTime (clampPercent (patternPercent b))) = if clamped b ≤ 33 then 2#2 else 1#2 := by
  rw [offTime_eq (clampPercent_bounds _).1, clampPercent_patternPercent, apply_ite (BitVec.ofNat 2)]

end Sys2Proof.Machine

namespace Sys2Proof.Claims

open Machine

/-- Settles O13: the pattern, the duty and the two lengths in terms of the table pattern. -/
theorem startSamplePublishes : Obligations.StartSamplePublishes := by
  intro ph cyc r
  rw [startSample, publish, sampleAt, sampleWith_val, ofInt_signed16, sampleWith_dval, publishedDuty_eq,
    ← pct_eq_patternPercent, sampleWith_on, ofNat_onTime_clamp, sampleWith_off, ofNat_offTime_clamp]
  rfl

/-- Settles O29, stage by stage; the bounds on the products follow from those of their factors. -/
theorem stageRanges : Obligations.StageRanges := by
  intro rom ph
  have hidx : (sineIndexOf ph).toNat < 2048 := (sineIndexOf ph).isLt
  have hval := signed16_bounds (rom (sineIndexOf ph))
  have hnrm := normalise_signed16_le (rom (sineIndexOf ph))
  have hpct := patternPercent_le (rom (sineIndexOf ph))
  have hc := clampPercent_bounds (patternPercent (rom (sineIndexOf ph)))
  have hduty := publishedDuty_eq (patternPercent (rom (sineIndexOf ph)))
  simp only [sampleWith_idx, sampleWith_val, sampleWith_nrm, sampleWith_pct, sampleWith_dval, sampleWith_c,
    sampleWith_on, sampleWith_off]
  refine ⟨by omega, hval.1, hval.2, hnrm, hpct, hduty, by omega, hc.1, hc.2, onTime_clamp _, offTime_clamp _, ?_⟩
  omega

/-- Settles O30: the classes begin at the least sample values of the percentages 34 and 67. -/
theorem timingClasses : Obligations.TimingClasses := by
  refine ⟨fun val hlo hhi => ?_, rfl, rfl, rfl, rfl⟩
  have h34 : -10485 ≤ val ↔ 34 ≤ percentOf (normalise val) := leastSample_le_iff hlo 34
  have h67 : 11142 ≤ val ↔ 67 ≤ percentOf (normalise val) := leastSample_le_iff hlo 67
  have hp := percentOf_normalise_le hlo hhi
  intro p c
  have hbounds : 20 ≤ c ∧ c ≤ 80 := clampPercent_bounds p
  have hc33 : c ≤ 33 ↔ p ≤ 33 := clampPercent_le_iff (by decide) (by decide) p
  have hc66 : c ≤ 66 ↔ p ≤ 66 := clampPercent_le_iff (by decide) (by decide) p
  have hon : onTime c = if p ≤ 66 then 1 else 2 := onTime_clamp_eq p
  have hoff : offTime c = if p ≤ 33 then 2 else 1 := offTime_clamp_eq p
  refine ⟨fun hlow => ?low, fun hge hle => ?mid, fun hhigh => ?high, ?times⟩
  case low =>
    have hp33 : p ≤ 33 := by omega
    rw [if_pos (by omega)] at hon
    rw [if_pos hp33] at hoff
    omega
  case mid =>
    have hp34 : 34 ≤ p := h34.mp hge
    have hp66 : p ≤ 66 := by omega
    have hc : c = p := clampPercent_of_mid (by omega) (by omega)
    rw [if_pos hp66] at hon
    rw [if_neg (by omega)] at hoff
    omega
  case high =>
    have hp67 : 67 ≤ p := h67.mp hhigh
    rw [if_neg (by omega)] at hon
    rw [if_neg (by omega)] at hoff
    omega
  case times => split at hon <;> split at hoff <;> omega

/-- Settles O31, stage by stage. -/
theorem stagesAreMonotone : Obligations.StagesAreMonotone := by
  refine ⟨fun v v' hv h _ => ?_, fun c c' _ h _ => ⟨onTime_mono h, offTime_anti h⟩⟩
  have hpct := percentOf_normalise_mono hv h
  exact ⟨hpct, publishedDuty_mono hpct⟩

/-- Settles O32: `leastSample` is reached first. -/
theorem leastSampleOfEachPercentage : Obligations.LeastSampleOfEachPercentage := by
  intro k _
  exact ⟨percentOf_normalise_leastSample k, neg_32768_le_leastSample k,
    fun v hv _ hk => (leastSample_le_iff hv k).mpr hk.ge⟩

end Sys2Proof.Claims

/-! PROOFS, the listed step: what each kind of move does, and the operations of the decode-word format. -/

namespace Sys2Proof.Machine

open Claims

/-- An operation of the decode-word format is RESET, or its register function run at an edge. -/
theorem exec_fsm_forms {i : Instr} (hi : i.format = .fsm) :
    IsReset i ∨ ∀ s, exec i s = atEdge s (edgeOp i s.ports) := by
  cases i with
  | reset tk st f e p => exact .inl ⟨tk, st, f, e, p, rfl⟩
  | rdIndex | rdValue | rdDuty | rdPeriod | rdHighEnd | rdPeriodEnd | rdCycle | rdRsvd => cases hi
  | _ => exact .inr fun _ => rfl

theorem decodeEdge_format (w : DecodeWord) : (decodeEdge w).format = .fsm := by revert w; decide

section Listed

variable (s : State) (ms : List Move)

/-- An edge performs the operation of the decode word that it forms (30_encoding.md R71). -/
theorem step_edge (rst tick stop : Bool) :
    step { s with moves := .edge rst tick stop :: ms } =
      exec (decodeEdge (packDecodeWord rst tick stop s.regs.fsm (remIsOne s.regs) (pIsTwo s.regs)))
        (s.driven (.edge rst tick stop) ms) := rfl

/-- A read samples the word of its address (42_status_port.md R160). -/
theorem step_read (a : PortAddr) :
    step { s with moves := .read a :: ms } = .next { s.driven (.read a) ms with rdata := memRead a s.regs } :=
  exec_decodeRead a (s.driven (.read a) ms)

/-- A configuration move drives its inputs (30_encoding.md R83). -/
theorem step_cfg (pin carrier sine : CfgWord) :
    step { s with moves := .cfg pin carrier sine :: ms } = .next (s.driven (.cfg pin carrier sine) ms) := rfl

end Listed

end Sys2Proof.Machine

/-! PROOFS, noninterference: the registers that no operation of the sequencer reads or writes
(41_pwm_sequencer.md R130, R148). -/

namespace Sys2Proof.Machine

open Claims

/-! ## The idle registers -/

/-- `r` with the seven registers of 41_pwm_sequencer.md R130 taken from `f`. -/
def Regs.withIdle (r f : Regs) : Regs :=
  { r with
    oeQ := f.oeQ
    stPeriod := f.stPeriod
    stHighEnd := f.stHighEnd
    stPeriodEnd := f.stPeriodEnd
    cfgPinQ := f.cfgPinQ
    cfgCarrierQ := f.cfgCarrierQ
    cfgSineQ := f.cfgSineQ }

@[simp] theorem Regs.withIdle_self (r : Regs) : r.withIdle r = r := rfl

theorem countDown_withIdle (r f : Regs) : countDown (r.withIdle f) = (countDown r).map (·.withIdle f) := by
  unfold countDown
  by_cases h : r.rem = 2#2
  · rw [if_pos h]; exact if_pos h
  · rw [if_neg h]; exact if_neg h

theorem endHigh_withIdle (r f : Regs) : endHigh (r.withIdle f) = (endHigh r).map (·.withIdle f) := by
  unfold endHigh
  by_cases h : legalLen r.offLen = true
  · rw [if_pos h]; exact if_pos h
  · rw [if_neg h]; exact if_neg h

theorem nextPulse_withIdle (r f : Regs) : nextPulse (r.withIdle f) = (nextPulse r).map (·.withIdle f) := by
  unfold nextPulse
  by_cases hp : r.p = 0#2 ∨ r.p = 1#2
  · by_cases h : legalLen r.onLen = true
    · rw [if_pos hp, if_pos h]; exact (if_pos hp).trans (if_pos h)
    · rw [if_pos hp, if_neg h]; exact (if_pos hp).trans (if_neg h)
  · rw [if_neg hp]; exact if_neg hp

/-- An operation other than INIT neither reads nor writes the idle registers, nor the inputs: it does the same whatever
they hold. -/
theorem edgeOp_withIdle {i : Instr} (hi : ¬∃ tk st e p, i = .init tk st e p) (q q' : Ports) (r f : Regs) :
    edgeOp i q' (r.withIdle f) = (edgeOp i q r).map (·.withIdle f) := by
  cases i with
  | init tk st e p => exact absurd ⟨tk, st, e, p, rfl⟩ hi
  | highCount | lowCount => exact countDown_withIdle r f
  | highEnd => exact endHigh_withIdle r f
  | pulseNext => exact nextPulse_withIdle r f
  | armStart | armStop | sampleNext | sampleStop | illegalState5 | illegalState6 | illegalState7 | holdArm | holdHigh
  | holdLow | doneHold | reset | rdIndex | rdValue | rdDuty | rdPeriod | rdHighEnd | rdPeriodEnd | rdCycle
  | rdRsvd => rfl

/-- So it leaves them as they were (41_pwm_sequencer.md R130). -/
theorem edgeOp_keeps_idle {i : Instr} {q : Ports} {r r' : Regs} (hi : ¬∃ tk st e p, i = .init tk st e p)
    (h : edgeOp i q r = .ok r') : r' = r'.withIdle r := by
  have hsame := edgeOp_withIdle hi q q r r
  rw [Regs.withIdle_self, h] at hsame
  exact Except.ok.inj hsame

/-! ## Registers that agree but for the configuration -/

/-- The latched configuration apart is the unread registers apart, with the same period. -/
theorem sansConfig_eq_iff {r r' : Regs} :
    sansConfig r = sansConfig r' ↔ sansUnread r = sansUnread r' ∧ r.stPeriod = r'.stPeriod := by
  refine ⟨fun h => ⟨(congrArg sansUnread h :), (congrArg Regs.stPeriod h :)⟩, fun ⟨h, hp⟩ => ?_⟩
  calc sansConfig r = { sansUnread r with stPeriod := r.stPeriod } := rfl
    _ = { sansUnread r' with stPeriod := r'.stPeriod } := by rw [h, hp]

section Agree

variable {r r' : Regs} (h : sansUnread r = sansUnread r')

include h

/-- Registers that differ in unread ones alone differ in idle ones alone. -/
theorem eq_withIdle_of_sansUnread : r' = r.withIdle r' := congrArg (·.withIdle r') h.symm

theorem sansUnread_withIdle (x : Regs) : sansUnread (x.withIdle r) = sansUnread (x.withIdle r') :=
  (congrArg (fun y => sansUnread (x.withIdle y)) h :)

/-- Whatever the unread registers hold, an edge operation succeeds alike, and its writes agree but for
those registers. -/
theorem edgeOp_ok_of_sansUnread {i : Instr} {q : Ports} (q' : Ports) {u : Regs} (ho : edgeOp i q r = .ok u) :
    ∃ u', edgeOp i q' r' = .ok u' ∧ sansUnread u = sansUnread u' ∧
      (r.stPeriod = r'.stPeriod → u.stPeriod = u'.stPeriod) := by
  by_cases hi : ∃ tk st e p, i = .init tk st e p
  · obtain ⟨tk, st, e, p, rfl⟩ := hi
    cases ho
    exact ⟨_, rfl, (congrArg (fun x => sansUnread (initRegs q x)) h :), fun _ => rfl⟩
  · have hkept := edgeOp_keeps_idle hi ho
    have hsame := edgeOp_withIdle hi q q' r r'
    rw [← eq_withIdle_of_sansUnread h, ho] at hsame
    refine ⟨_, hsame, ?_, fun hp => ?_⟩
    · rw [← sansUnread_withIdle h, ← hkept]
    · rw [hkept]; exact hp

/-- It faults alike too. -/
theorem edgeOp_error_of_sansUnread {i : Instr} {q : Ports} (q' : Ports) {f : Fault} (ho : edgeOp i q r = .error f) :
    edgeOp i q' r' = .error f := by
  have hi : ¬∃ tk st e p, i = .init tk st e p := by
    rintro ⟨tk, st, e, p, rfl⟩
    cases ho
  have hsame := edgeOp_withIdle hi q q' r r'
  rwa [← eq_withIdle_of_sansUnread h, ho] at hsame

end Agree

section Exec

variable {i : Instr} {s s' : State} (hi : i.format = .fsm) (h : sansUnread s.regs = sansUnread s'.regs)
  (hr : s.hasReset = s'.hasReset)

include hi h hr

/-- An operation at an edge completes alike whatever the unread registers hold (41_pwm_sequencer.md R148). -/
theorem exec_next_of_sansUnread {t : State} (he : exec i s = .next t) :
    ∃ u', exec i s' = .next { s' with regs := u', hasReset := t.hasReset } ∧ sansUnread t.regs = sansUnread u' ∧
      (s.regs.stPeriod = s'.regs.stPeriod → t.regs.stPeriod = u'.stPeriod) ∧ t.rdata = s.rdata := by
  rcases exec_fsm_forms hi with ⟨tk, st, f, e, p, rfl⟩ | hform
  · cases he
    exact ⟨_, rfl, rfl, fun _ => rfl, rfl⟩
  · rw [hform] at he
    obtain ⟨hreset, u, ho, rfl⟩ := atEdge_next_iff.mp he
    obtain ⟨u', ho', hu, hp⟩ := edgeOp_ok_of_sansUnread h s'.ports ho
    refine ⟨u', ?_, hu, hp, rfl⟩
    rw [hform, atEdge_of_ok (hr ▸ hreset) ho', State.setRegs_hasReset, hr]
    rfl

theorem exec_fault_of_sansUnread {f : Fault} (he : exec i s = .fault f) : exec i s' = .fault f := by
  rcases exec_fsm_forms hi with ⟨tk, st, c, e, p, rfl⟩ | hform
  · cases he
  · rw [hform] at he ⊢
    exact atEdge_fault_iff.mpr ((atEdge_fault_iff.mp he).imp (fun ⟨hn, hf⟩ => ⟨hr ▸ hn, hf⟩)
      (fun ⟨hreset, ho⟩ => ⟨hr ▸ hreset, edgeOp_error_of_sansUnread h s'.ports ho⟩))

end Exec

/-! ## Runs that differ in the configuration -/

/-- The states agree in all that a run shows, the latched configuration apart. -/
structure SameSansConfig (s s' : State) : Prop where
  regs : sansConfig s.regs = sansConfig s'.regs
  hasReset : s.hasReset = s'.hasReset
  rdata : s.rdata = s'.rdata

/-- The state that the second run's edge finds selects the operation of the first. -/
theorem SameSansConfig.same_selected {s s' : State} (h : SameSansConfig s s') (rst tick stop : Bool) :
    decodeEdge (packDecodeWord rst tick stop s'.regs.fsm (remIsOne s'.regs) (pIsTwo s'.regs)) =
      decodeEdge (packDecodeWord rst tick stop s.regs.fsm (remIsOne s.regs) (pIsTwo s.regs)) :=
  (congrArg (fun r : Regs => decodeEdge (packDecodeWord rst tick stop r.fsm (remIsOne r) (pIsTwo r))) h.regs.symm :)

section Step

variable {m m' : Move} {ms ms' : List Move} {s s' : State} (hm : SameButConfig m m') (h : SameSansConfig s s')

include hm h

/-- One move: an edge performs the same operation, a read samples the same word, a CFG drives inputs alone. -/
theorem step_next_sansConfig {t : State} (ht : step { s with moves := m :: ms } = .next t) :
    ∃ t', step { s' with moves := m' :: ms' } = .next t' ∧ SameSansConfig t t' := by
  obtain ⟨hunread, hperiod⟩ := sansConfig_eq_iff.mp h.regs
  cases m with
  | edge rst tick stop =>
    obtain rfl : .edge rst tick stop = m' := by cases m' <;> exact hm
    rw [step_edge] at ht ⊢
    obtain ⟨u', he, hu, hp, hdata⟩ := exec_next_of_sansUnread (s := s.driven (.edge rst tick stop) ms)
      (s' := s'.driven (.edge rst tick stop) ms') (decodeEdge_format _) hunread h.hasReset ht
    rw [h.same_selected]
    exact ⟨_, he, sansConfig_eq_iff.mpr ⟨hu, hp hperiod⟩, rfl, hdata.trans h.rdata⟩
  | cfg pin carrier sine =>
    cases m' with
    | cfg pin' carrier' sine' => cases ht; exact ⟨_, rfl, h.regs, h.hasReset, h.rdata⟩
    | edge | read => cases hm
  | read a =>
    obtain rfl : .read a = m' := by cases m' <;> exact hm
    rw [step_read] at ht ⊢
    cases ht
    exact ⟨_, rfl, h.regs, h.hasReset, (congrArg (memRead a) h.regs :)⟩

theorem step_fault_sansConfig {f : Fault} (hf : step { s with moves := m :: ms } = .fault f) :
    step { s' with moves := m' :: ms' } = .fault f := by
  cases m with
  | edge rst tick stop =>
    obtain rfl : .edge rst tick stop = m' := by cases m' <;> exact hm
    rw [step_edge] at hf ⊢
    rw [h.same_selected]
    exact exec_fault_of_sansUnread (s := s.driven (.edge rst tick stop) ms)
      (s' := s'.driven (.edge rst tick stop) ms') (decodeEdge_format _) (sansConfig_eq_iff.mp h.regs).1 h.hasReset hf
  | cfg pin carrier sine => cases hf
  | read a =>
    rw [step_read] at hf
    cases hf

end Step

section Run

variable {ms ms' : List Move} {s s' : State}

theorem playMoves_next_sansConfig (hms : List.Forall₂ SameButConfig ms ms') (h : SameSansConfig s s') {t : State}
    (ht : playMoves ms s = .next t) : ∃ t', playMoves ms' s' = .next t' ∧ SameSansConfig t t' := by
  induction hms generalizing s s' with
  | nil => cases ht; exact ⟨_, rfl, h.regs, h.hasReset, h.rdata⟩
  | cons hm _ ih =>
    obtain ⟨u, hu, hrest⟩ := playMoves_cons_next ht
    obtain ⟨u', hu', h'⟩ := step_next_sansConfig hm h hu
    rw [playMoves_cons, hu']
    exact ih h' hrest

theorem playMoves_fault_sansConfig (hms : List.Forall₂ SameButConfig ms ms') (h : SameSansConfig s s') {f : Fault}
    (hf : playMoves ms s = .fault f) : playMoves ms' s' = .fault f := by
  induction hms generalizing s s' with
  | nil => cases hf
  | cons hm _ ih =>
    rw [playMoves_cons] at hf ⊢
    split at hf
    next u hu =>
      obtain ⟨u', hu', h'⟩ := step_next_sansConfig hm h hu
      rw [hu']
      exact ih h' hf
    next g hg =>
      rw [step_fault_sansConfig hm h hg]
      exact hf
    next => cases hf

end Run

/-! ## The faults of the sequencer -/

/-- The register functions of the sequencer fault with nothing but an invariant fault (60_exceptions.md R181). -/
theorem edgeOp_error_invariantFault {i : Instr} {q : Ports} {r : Regs} {f : Fault} (hi : ¬IsIllegal i)
    (h : edgeOp i q r = .error f) : ∃ info, f = .invariantFault info := by
  cases i with
  | highCount | lowCount => exact ⟨_, (countDown_error_iff.mp h).2⟩
  | highEnd => exact ⟨_, (endHigh_error_iff.mp h).2⟩
  | pulseNext =>
    rcases nextPulse_error_iff.mp h with ⟨-, hf⟩ | ⟨-, -, hf⟩
    · exact ⟨_, hf⟩
    · exact ⟨_, hf⟩
  | illegalState5 t st e p => exact absurd ⟨t, st, e, p, .inl rfl⟩ hi
  | illegalState6 t st e p => exact absurd ⟨t, st, e, p, .inr (.inl rfl)⟩ hi
  | illegalState7 t st e p => exact absurd ⟨t, st, e, p, .inr (.inr rfl)⟩ hi
  | init | armStart | armStop | sampleNext | sampleStop | holdArm | holdHigh | holdLow | doneHold | reset | rdIndex
  | rdValue | rdDuty | rdPeriod | rdHighEnd | rdPeriodEnd | rdCycle | rdRsvd => cases h

/-- A sequencer operation is its register function run at an edge. -/
theorem exec_sequencer {i : Instr} (hi : IsSequencer i) (s : State) : exec i s = atEdge s (edgeOp i s.ports) := by
  obtain ⟨hformat, hreset, -, -⟩ := hi
  exact (exec_fsm_forms hformat).resolve_left hreset s

/-- From the invariants an edge completes (60_exceptions.md R180). -/
theorem State.Inv.edgeResult_next {s : State} (hs : s.Inv) : ∃ t, edgeResult s = .next t := by
  rcases exec_fsm_forms (decodeEdge_format (decodeWordOf s)) with ⟨t, st, f, e, p, hi⟩ | hform
  · exact ⟨_, by rw [edgeResult, hi]; rfl⟩
  · obtain ⟨r, ho⟩ := hs.2.edgeOp_ok (q := s.ports) (encode_decodeEdge (decodeWordOf s))
    exact ⟨_, exec_next_of_ok (hform s) hs.1 ho⟩

end Sys2Proof.Machine

namespace Sys2Proof.Claims

open Machine

/-- Settles O45: an operation depends on no unread register, and the agreement of two runs is kept by every move. -/
theorem configurationNeverConsulted : Obligations.ConfigurationNeverConsulted := by
  refine ⟨fun i s s' hi h hr => ⟨fun t ht => ?_, fun f => exec_fault_of_sansUnread hi h hr⟩,
    fun ms ms' s s' hms hregs hr hd => ⟨fun t ht => ?_, fun f => playMoves_fault_sansConfig hms ⟨hregs, hr, hd⟩⟩⟩
  · obtain ⟨u', he, hu, -⟩ := exec_next_of_sansUnread hi h hr ht
    exact ⟨_, he, hu⟩
  · obtain ⟨t', ht', h⟩ := playMoves_next_sansConfig hms ⟨hregs, hr, hd⟩ ht
    exact ⟨t', ht', h.regs, h.rdata, (congrArg Regs.outQ h.regs :)⟩

/-- Settles O37, by the idle registers, the errors of the register functions, and progress under the invariants. -/
theorem sequencerFrame : Obligations.SequencerFrame := by
  refine ⟨fun i s t hi he => ?frame, fun i s f hi hr he => ?faults, fun s f hs he => ?inv⟩
  case frame =>
    rw [exec_sequencer hi] at he
    obtain ⟨-, r, ho, rfl⟩ := atEdge_next_iff.mp he
    have hinit : ¬∃ tk st e p, i = .init tk st e p := fun ⟨tk, st, e, p, h⟩ => hi.2.2.2 tk st e p h
    rw [State.setRegs_regs, edgeOp_keeps_idle hinit ho]
    exact ⟨rfl, rfl, rfl, rfl, rfl, rfl, rfl⟩
  case faults =>
    rw [exec_sequencer hi] at he
    rcases atEdge_fault_iff.mp he with ⟨hn, -⟩ | ⟨-, ho⟩
    · exact Bool.noConfusion (hn.symm.trans hr)
    · exact edgeOp_error_invariantFault hi.2.2.1 ho
  case inv =>
    obtain ⟨t, ht⟩ := hs.edgeResult_next
    cases ht.symm.trans he

end Sys2Proof.Claims

/-! PROOFS, the holds: a move that ends no time unit, and every move in `S_DONE`, leaves the registers as they were
(41_pwm_sequencer.md R131, R140). -/

namespace Sys2Proof.Machine

/-- The move selects no operation but a hold or a read in the registers `r`, or none at all. -/
def Move.Holds (m : Move) (r : Regs) : Prop :=
  m.isReset = false ∧ ((m.isTick = false ∧ (r.fsm = sArm ∨ r.fsm = sHigh ∨ r.fsm = sLow)) ∨ r.fsm = sDone)

/-- Of such an edge, the register function writes nothing. -/
theorem exec_hold {s : State} {tick stop : Bool} (hr : s.hasReset = true)
    (hm : (Move.edge false tick stop).Holds s.regs) :
    exec (decodeEdge (packDecodeWord false tick stop s.regs.fsm (remIsOne s.regs) (pIsTwo s.regs))) s = .next s := by
  obtain ⟨-, ⟨htick, hf⟩ | hf⟩ := hm
  · obtain rfl : tick = false := htick
    rcases hf with hf | hf | hf <;> rw [hf]
    · rw [decodeEdge_arm_idle]; exact exec_next_of_ok rfl hr rfl
    · rw [decodeEdge_high_idle]; exact exec_next_of_ok rfl hr rfl
    · rw [decodeEdge_low_idle]; exact exec_next_of_ok rfl hr rfl
  · rw [hf, decodeEdge_done]
    exact exec_next_of_ok rfl hr rfl

theorem step_hold {m : Move} {ms : List Move} {s : State} (hr : s.hasReset = true) (hm : m.Holds s.regs) :
    ∃ t, step { s with moves := m :: ms } = .next t ∧ t.regs = s.regs ∧ t.hasReset = true := by
  cases m with
  | edge rst tick stop =>
    obtain rfl : rst = false := hm.1
    rw [step_edge]
    exact ⟨_, exec_hold (s := s.driven (.edge false tick stop) ms) hr hm, rfl, hr⟩
  | cfg pin carrier sine => exact ⟨_, step_cfg s ms pin carrier sine, rfl, hr⟩
  | read a => exact ⟨_, step_read s ms a, rfl, hr⟩

/-- However many such moves follow each other. -/
theorem playMoves_hold {ms : List Move} {s : State} (hr : s.hasReset = true) (hms : ∀ m ∈ ms, m.Holds s.regs) :
    ∃ t, playMoves ms s = .next t ∧ t.regs = s.regs ∧ t.hasReset = true := by
  induction ms generalizing s with
  | nil => exact ⟨_, rfl, rfl, hr⟩
  | cons m ms ih =>
    obtain ⟨hm, hms'⟩ := List.forall_mem_cons.mp hms
    obtain ⟨u, hu, hregs, hr'⟩ := step_hold (ms := ms) hr hm
    rw [playMoves_cons, hu]
    rw [← hregs] at hms' ⊢
    exact ih hr' hms'

/-- From INIT on, moves without a tick or a reset are such. -/
theorem Regs.Inv.holds_of_no_tick {r : Regs} {ms : List Move} (h : r.Inv) (hf : r.fsm ≠ sInit) (hms : NoResetIn ms)
    (hticks : tickCount ms = 0) : ∀ m ∈ ms, m.Holds r := by
  intro m hm
  have htick : m.isTick = false := by simpa using List.countP_eq_zero.mp hticks m hm
  rcases h.i1 with hi | hi | hi | hi | hi
  · exact absurd hi hf
  · exact ⟨hms m hm, .inl ⟨htick, .inl hi⟩⟩
  · exact ⟨hms m hm, .inl ⟨htick, .inr (.inl hi)⟩⟩
  · exact ⟨hms m hm, .inl ⟨htick, .inr (.inr hi)⟩⟩
  · exact ⟨hms m hm, .inr hi⟩

end Sys2Proof.Machine

namespace Sys2Proof.Claims

open Machine

/-- Settles O49: moves that end no unit are holds. -/
theorem nothingMovesWithoutATick : Obligations.NothingMovesWithoutATick := by
  intro ms s hs hf hms hticks
  obtain ⟨t, ht, hregs, -⟩ := playMoves_hold hs.1 (hs.2.holds_of_no_tick hf hms hticks)
  exact ⟨t, ht, hregs⟩

/-- Settles O50: in `S_DONE` every move without a reset is a hold. -/
theorem doneUntilReset : Obligations.DoneUntilReset := by
  intro ms s ⟨hr, hf⟩ hms
  obtain ⟨t, ht, hregs, hr'⟩ := playMoves_hold hr fun m hm => ⟨hms m hm, .inr hf⟩
  exact ⟨t, ht, hregs, hr', hregs ▸ hf⟩

end Sys2Proof.Claims

/-! PROOFS, the ticks of a pulse and of a sample: each ends one time unit (41_pwm_sequencer.md R134 to R143). -/

namespace Sys2Proof.Machine

/-! ## What a tick edge writes while units are counted -/

/-- The register writes of a tick edge in `S_HIGH` or `S_LOW`, whose operation is `i`. -/
inductive UnitEnds (stop : Bool) (i : Instr) (r : Regs) : Regs → Prop
  /-- HIGH_COUNT and LOW_COUNT (R134, R136). -/
  | count (hf : r.fsm = sHigh ∨ r.fsm = sLow) (hrem : r.rem = 2#2) : UnitEnds stop i r { r with rem := 1#2 }
  /-- HIGH_END (R135). -/
  | lower (hf : r.fsm = sHigh) (hrem : r.rem = 1#2) :
      UnitEnds stop i r { r with outQ := false, rem := r.offLen, fsm := sLow }
  /-- PULSE_NEXT (R137). -/
  | raise (hf : r.fsm = sLow) (hrem : r.rem = 1#2) (hp : r.p = 0#2 ∨ r.p = 1#2) : UnitEnds stop i r
      { r with cycle := r.cycle + 1#64, p := r.p + 1#2, outQ := true, rem := r.onLen, fsm := sHigh }
  /-- SAMPLE_NEXT (R138). -/
  | publish (hi : i = .sampleNext) (hf : r.fsm = sLow) (hrem : r.rem = 1#2) (hp : r.p = 2#2) :
      UnitEnds stop i r (startSample (r.phase + 1#32) (r.cycle + 1#64) (advance r))
  /-- SAMPLE_STOP (R139). -/
  | stop (hi : i = .sampleStop) (hstop : stop = true) (hf : r.fsm = sLow) (hrem : r.rem = 1#2) (hp : r.p = 2#2) :
      UnitEnds stop i r (stopLow (advance r))

/-- An edge without `rst` while units are counted: a hold, or the end of a unit. -/
theorem edge_counting {s t : State} (hf : s.regs.fsm = sHigh ∨ s.regs.fsm = sLow) (hrst : s.ports.rst = false)
    (h : exec (decodeEdge (decodeWordOf s)) s = .next t) :
    (s.ports.tick = false ∧ t.regs = s.regs) ∨
    (s.ports.tick = true ∧ UnitEnds s.ports.stop (decodeEdge (decodeWordOf s)) s.regs t.regs) := by
  have last : ∀ {b : Bool}, s.regs.fsm = sLow → s.ports.tick = true → s.regs.rem = 1#2 → s.regs.p = 2#2 →
      s.ports.stop = b → decodeEdge (decodeWordOf s) = if b then .sampleStop else .sampleNext := by
    intro b hlow ht he hp hstop
    rw [decodeWordOf, hrst, ht, hstop, hlow, remIsOne_iff.mpr he, pIsTwo_iff.mpr hp, decodeEdge_low_tick]
    rfl
  have hnot : s.regs.fsm ≠ sInit ∧ s.regs.fsm ≠ sArm ∧ s.regs.fsm ≠ sDone := by
    rcases hf with hf | hf <;> simp [hf]
  obtain ⟨hinit, harm, hdone⟩ := hnot
  obtain ⟨-, hrow⟩ := edge_next_cases hrst h
  rcases hrow with ⟨hf', -⟩ | ⟨-, ht | hf', rfl⟩ | ⟨hf', -⟩ | ⟨hf', -⟩ | ⟨-, ht, hrem, rfl⟩ |
    ⟨hf', ht, hrem, -, rfl⟩ | ⟨hf', ht, hrem, hp, -, rfl⟩ | ⟨hf', ht, hrem, hp, hstop, rfl⟩ |
    ⟨hf', ht, hrem, hp, hstop, rfl⟩
  · exact absurd hf' hinit
  · exact .inl ⟨ht, rfl⟩
  · exact absurd hf' hdone
  · exact absurd hf' harm
  · exact absurd hf' harm
  · exact .inr ⟨ht, .count hf hrem⟩
  · exact .inr ⟨ht, .lower hf' hrem⟩
  · exact .inr ⟨ht, .raise hf' hrem hp⟩
  · exact .inr ⟨ht, .publish (last hf' ht hrem hp hstop) hf' hrem hp⟩
  · exact .inr ⟨ht, .stop (last hf' ht hrem hp hstop) hstop hf' hrem hp⟩

theorem step_of_fetch {s : State} {i : Instr} (hi : (fetch s).1 = some i) : step s = exec i (fetch s).2 := by
  unfold step
  rcases hf : fetch s with ⟨o, u⟩
  rw [hf] at hi
  cases hi
  rfl

/-- What an edge selects, drawn or listed. -/
theorem fetch_edge {s : State} {rst tick stop : Bool} (hm : (nextMove s).1 = .edge rst tick stop) :
    (fetch s).1 = some (decodeEdge (decodeWordOf (fetch s).2)) := by
  have hsel : (fetch s).1 = selectOp (nextMove s).1 (fetch s).2 := rfl
  rw [hsel, hm]
  rfl

/-- A step without a reset while units are counted. -/
theorem step_counting {s t : State} (hf : s.regs.fsm = sHigh ∨ s.regs.fsm = sLow)
    (hm : (nextMove s).1.isReset = false) (h : step s = .next t) :
    ((nextMove s).1.isTick = false ∧ t.regs = s.regs) ∨
    ((nextMove s).1.isTick = true ∧ ∃ i, (fetch s).1 = some i ∧ UnitEnds (nextMove s).1.isStop i s.regs t.regs) := by
  have hports : (fetch s).2.ports = drive (nextMove s).1 (nextMove s).2.ports := rfl
  have hsel : (fetch s).1 = selectOp (nextMove s).1 (fetch s).2 := rfl
  cases hmove : (nextMove s).1 with
  | edge rst tick stop =>
    rw [hmove] at hports hm
    obtain rfl : rst = false := hm
    rw [step_of_fetch (fetch_edge hmove)] at h
    have hcount := edge_counting (by rwa [fetch_regs]) (congrArg Ports.rst hports) h
    rw [hports, fetch_regs] at hcount
    exact hcount.imp_right fun ⟨ht, hu⟩ => ⟨ht, _, fetch_edge hmove, hu⟩
  | cfg pin carrier sine =>
    rw [hmove] at hsel
    rcases step_next_cases h with ⟨i, hi, -⟩ | ⟨-, rfl⟩
    · cases hsel.symm.trans hi
    · exact .inl ⟨rfl, fetch_regs s⟩
  | read a =>
    rw [hmove] at hsel
    rw [step_of_fetch hsel] at h
    cases (exec_decodeRead a _).symm.trans h
    exact .inl ⟨rfl, fetch_regs s⟩

/-! ## The units of a pulse and of a sample -/

/-- The units of one pulse (41_pwm_sequencer.md R142). -/
def Regs.pulseLen (r : Regs) : Nat := r.onLen.toNat + r.offLen.toNat

/-- How many units of the present pulse have ended. -/
def Regs.pulseUnits (r : Regs) : Nat :=
  if r.fsm = sHigh then r.onLen.toNat - r.rem.toNat else r.pulseLen - r.rem.toNat

/-- How many units of the present sample have ended. -/
def Regs.sampleUnits (r : Regs) : Nat := r.p.toNat * r.pulseLen + r.pulseUnits

/-- The registers of `r'` belong to the sample of `r` (41_pwm_sequencer.md R143). -/
structure SameSample (r r' : Regs) : Prop where
  phase : r'.phase = r.phase
  stIndex : r'.stIndex = r.stIndex
  stValue : r'.stValue = r.stValue
  stDuty : r'.stDuty = r.stDuty
  stCycle : r'.stCycle = r.stCycle
  onLen : r'.onLen = r.onLen
  offLen : r'.offLen = r.offLen

/-- The sample of `r` has just ended in `r'`: the next one is published, or, if `stopped`, the sequencer has stopped. -/
structure SampleEnds (stopped : Prop) (r r' : Regs) : Prop where
  phase : r'.phase = r.phase + 1#32
  cycle : r'.cycle = r.stCycle + 3#64
  next : (r'.fsm = sHigh ∧ r'.outQ = true ∧ r'.p = 0#2 ∧ r'.rem = r'.onLen ∧ r'.stCycle = r.stCycle + 3#64) ∨
    (r'.fsm = sDone ∧ r'.outQ = false ∧ r'.stCycle = r.stCycle ∧ stopped)

section Units

variable {r r' r'' : Regs}

theorem SameSample.refl (r : Regs) : SameSample r r := ⟨rfl, rfl, rfl, rfl, rfl, rfl, rfl⟩

theorem SameSample.trans (h : SameSample r r') (h' : SameSample r' r'') : SameSample r r'' :=
  ⟨h'.phase.trans h.phase, h'.stIndex.trans h.stIndex, h'.stValue.trans h.stValue, h'.stDuty.trans h.stDuty,
   h'.stCycle.trans h.stCycle, h'.onLen.trans h.onLen, h'.offLen.trans h.offLen⟩

theorem SameSample.pulseLen_eq (h : SameSample r r') : r'.pulseLen = r.pulseLen := by
  rw [Regs.pulseLen, h.onLen, h.offLen, Regs.pulseLen]

/-- A sample that ends for its later registers ends for its earlier ones. -/
theorem SampleEnds.of_same {stopped stopped' : Prop} (h : SameSample r r') (he : SampleEnds stopped r' r'')
    (himp : stopped → stopped') : SampleEnds stopped' r r'' := by
  obtain ⟨hphase, hcycle, hnext⟩ := he
  rw [h.stCycle] at hcycle hnext
  exact ⟨h.phase ▸ hphase, hcycle, hnext.imp_right fun ⟨hf, ho, hc, hs⟩ => ⟨hf, ho, hc, himp hs⟩⟩

theorem SampleEnds.fsm_ne_sInit {stopped : Prop} (h : SampleEnds stopped r r') : r'.fsm ≠ sInit := by
  rcases h.next with ⟨hf, -⟩ | ⟨hf, -⟩ <;> simp [hf]

variable (h : r.Inv)

include h

/-- In a high phase, the units ended and the units left make the on time. -/
theorem Regs.Inv.pulseUnits_high (hf : r.fsm = sHigh) :
    1 ≤ r.rem.toNat ∧ r.pulseUnits + r.rem.toNat = r.onLen.toNat := by
  obtain ⟨hpos, hle⟩ := h.i2High hf
  rw [BitVec.le_def] at hpos hle
  have hdef : r.pulseUnits = r.onLen.toNat - r.rem.toNat := if_pos hf
  exact ⟨hpos, by omega⟩

/-- In a low phase, they make the whole pulse, of which the off time is not over. -/
theorem Regs.Inv.pulseUnits_low (hf : r.fsm = sLow) :
    1 ≤ r.rem.toNat ∧ r.rem.toNat ≤ r.offLen.toNat ∧ r.pulseUnits + r.rem.toNat = r.pulseLen := by
  obtain ⟨hpos, hle⟩ := h.i2Low hf
  rw [BitVec.le_def] at hpos hle
  have hdef : r.pulseUnits = r.pulseLen - r.rem.toNat := if_neg (by simp [hf])
  have hlen : r.offLen.toNat ≤ r.pulseLen := Nat.le_add_left _ _
  exact ⟨hpos, hle, by omega⟩

section Counting

variable (hf : r.fsm = sHigh ∨ r.fsm = sLow)

include hf

theorem Regs.Inv.p_le : r.p.toNat ≤ 2 := by
  obtain ⟨-, -, hp | hp | hp⟩ := h.i2 hf <;> simp [hp]

/-- A pulse has two or three units: both times are never 2 (40_sample_pipeline.md R110). -/
theorem Regs.Inv.pulseLen_cases : r.pulseLen = 2 ∨ r.pulseLen = 3 := by
  obtain ⟨-, -, -, hon, hoff, -⟩ := h.i6 hf
  rw [Regs.pulseLen, hon, hoff, onTime_clamp_eq, offTime_clamp_eq]
  split_ifs <;> omega

theorem Regs.Inv.pulseUnits_lt : r.pulseUnits < r.pulseLen := by
  rcases hf with hf | hf
  · have hunits := h.pulseUnits_high hf
    have hlen : r.onLen.toNat ≤ r.pulseLen := Nat.le_add_right _ _
    omega
  · have hunits := h.pulseUnits_low hf
    omega

/-- The line is high for the first `on_len` units of a pulse (41_pwm_sequencer.md R142). -/
theorem Regs.Inv.outQ_iff : r.outQ = true ↔ r.pulseUnits < r.onLen.toNat := by
  rw [h.i3]
  rcases hf with hf | hf
  · have hunits := h.pulseUnits_high hf
    exact iff_of_true hf (by omega)
  · obtain ⟨-, hle, hunits⟩ := h.pulseUnits_low hf
    rw [Regs.pulseLen] at hunits
    exact iff_of_false (by simp [hf]) (by omega)

/-- A pulse of which no unit has ended has just begun. -/
theorem Regs.Inv.begins_of_pulseUnits (h0 : r.pulseUnits = 0) : r.fsm = sHigh ∧ r.rem = r.onLen := by
  have hpos : 0 < r.onLen.toNat := by
    obtain ⟨hon | hon, -⟩ := h.i2 hf <;> simp [hon]
  have hhigh : r.fsm = sHigh := h.i3.mp ((h.outQ_iff hf).mpr (h0 ▸ hpos))
  obtain ⟨-, hunits⟩ := h.pulseUnits_high hhigh
  exact ⟨hhigh, BitVec.eq_of_toNat_eq (by omega)⟩

theorem Regs.Inv.pulseUnits_eq_mod : r.pulseUnits = r.sampleUnits % r.pulseLen := by
  rw [Regs.sampleUnits, Nat.mul_add_mod_self_right, Nat.mod_eq_of_lt (h.pulseUnits_lt hf)]

theorem Regs.Inv.p_eq_div : r.p.toNat = r.sampleUnits / r.pulseLen := by
  have hlt := h.pulseUnits_lt hf
  rw [Regs.sampleUnits, Nat.add_comm, Nat.add_mul_div_right _ _ (by omega), Nat.div_eq_of_lt hlt, Nat.zero_add]

/-- A sample has three pulses. -/
theorem Regs.Inv.sampleUnits_lt : r.sampleUnits < 3 * r.pulseLen := by
  have hdiv := h.p_eq_div hf
  have hp := h.p_le hf
  have hlt := h.pulseUnits_lt hf
  exact (Nat.div_lt_iff_lt_mul (by omega)).mp (by omega)

end Counting

/-- HIGH_COUNT and LOW_COUNT end one unit of the pulse. -/
theorem Regs.Inv.pulseUnits_count (h' : Regs.Inv { r with rem := 1#2 }) (hf : r.fsm = sHigh ∨ r.fsm = sLow)
    (hrem : r.rem = 2#2) : Regs.pulseUnits { r with rem := 1#2 } = r.pulseUnits + 1 := by
  rcases hf with hf | hf
  · obtain ⟨-, hunits⟩ := h.pulseUnits_high hf
    have hunits' : _ + 1 = r.onLen.toNat := (h'.pulseUnits_high hf).2
    rw [hrem] at hunits
    exact Nat.succ.inj (hunits'.trans hunits.symm)
  · obtain ⟨-, -, hunits⟩ := h.pulseUnits_low hf
    have hunits' : _ + 1 = r.pulseLen := (h'.pulseUnits_low hf).2.2
    rw [hrem] at hunits
    exact Nat.succ.inj (hunits'.trans hunits.symm)

/-- HIGH_END ends the last unit of the high phase. -/
theorem Regs.Inv.pulseUnits_lower (h' : Regs.Inv { r with outQ := false, rem := r.offLen, fsm := sLow })
    (hf : r.fsm = sHigh) (hrem : r.rem = 1#2) :
    Regs.pulseUnits { r with outQ := false, rem := r.offLen, fsm := sLow } = r.pulseUnits + 1 := by
  obtain ⟨-, hunits⟩ := h.pulseUnits_high hf
  have hunits' : _ + r.offLen.toNat = r.onLen.toNat + r.offLen.toNat := (h'.pulseUnits_low rfl).2.2
  rw [hrem] at hunits
  exact (Nat.add_right_cancel hunits').trans hunits.symm

/-- A tick in the last unit of a low phase ends the pulse. -/
theorem Regs.Inv.pulseUnits_last (hf : r.fsm = sLow) (hrem : r.rem = 1#2) : r.pulseUnits + 1 = r.pulseLen := by
  obtain ⟨-, -, hunits⟩ := h.pulseUnits_low hf
  rwa [hrem] at hunits

/-- The third pulse of a sample is counted two past `ST_CYCLE` (I6). -/
theorem Regs.Inv.cycle_last (hf : r.fsm = sHigh ∨ r.fsm = sLow) (hp : r.p = 2#2) :
    r.cycle + 1#64 = r.stCycle + 3#64 := by
  obtain ⟨-, -, -, -, -, hc⟩ := h.i6 hf
  rw [hc, hp, BitVec.add_assoc]
  rfl

/-- A tick in the last unit of the third pulse ends the sample. -/
theorem Regs.Inv.sampleUnits_last (hf : r.fsm = sLow) (hrem : r.rem = 1#2) (hp : r.p = 2#2) :
    r.sampleUnits + 1 = 3 * r.pulseLen := by
  have hlast := h.pulseUnits_last hf hrem
  have hsum : r.sampleUnits = 2 * r.pulseLen + r.pulseUnits := by rw [Regs.sampleUnits, hp]; rfl
  omega

/-- A tick ends one unit of the sample, and with the last one it ends the sample. -/
theorem UnitEnds.advances {stop : Bool} {i : Instr} (h' : r'.Inv) (hu : UnitEnds stop i r r') :
    (SameSample r r' ∧ (r'.fsm = sHigh ∨ r'.fsm = sLow) ∧ r'.sampleUnits = r.sampleUnits + 1) ∨
    (r.sampleUnits + 1 = 3 * r.pulseLen ∧ SampleEnds (stop = true) r r') := by
  cases hu with
  | count hf hrem =>
    exact .inl ⟨⟨rfl, rfl, rfl, rfl, rfl, rfl, rfl⟩, hf, congrArg _ (h.pulseUnits_count h' hf hrem)⟩
  | lower hf hrem =>
    exact .inl ⟨⟨rfl, rfl, rfl, rfl, rfl, rfl, rfl⟩, .inr rfl, congrArg _ (h.pulseUnits_lower h' hf hrem)⟩
  | raise hf hrem hp =>
    refine .inl ⟨⟨rfl, rfl, rfl, rfl, rfl, rfl, rfl⟩, .inl rfl, ?_⟩
    have hlast := h.pulseUnits_last hf hrem
    have hbegun : _ + r.onLen.toNat = r.onLen.toNat := (h'.pulseUnits_high rfl).2
    have hp' : (r.p + 1#2).toNat = r.p.toNat + 1 := by rcases hp with hp | hp <;> rw [hp] <;> rfl
    calc (r.p + 1#2).toNat * r.pulseLen + _
      _ = (r.p.toNat + 1) * r.pulseLen + 0 := by rw [hp', Nat.add_eq_right.mp hbegun]
      _ = r.sampleUnits + 1 := by rw [Regs.sampleUnits, Nat.add_assoc, hlast]; exact Nat.succ_mul _ _
  | publish hi hf hrem hp =>
    have hc := h.cycle_last (.inr hf) hp
    exact .inr ⟨h.sampleUnits_last hf hrem hp, rfl, hc, .inl ⟨rfl, rfl, rfl, rfl, hc⟩⟩
  | stop hi hstop hf hrem hp =>
    exact .inr ⟨h.sampleUnits_last hf hrem hp, rfl, h.cycle_last (.inr hf) hp, .inr ⟨rfl, rfl, rfl, hstop⟩⟩

end Units

/-! ## Lists of moves -/

/-- A listed move without a reset: the sample goes on by the unit that a tick ends, or it ends. -/
theorem step_sample {m : Move} {ms : List Move} {s u : State} (hs : s.Inv)
    (hf : s.regs.fsm = sHigh ∨ s.regs.fsm = sLow) (hm : m.isReset = false)
    (hu : step { s with moves := m :: ms } = .next u) :
    (SameSample s.regs u.regs ∧ (u.regs.fsm = sHigh ∨ u.regs.fsm = sLow) ∧
      u.regs.sampleUnits = s.regs.sampleUnits + m.isTick.toNat) ∨
    (m.isTick = true ∧ s.regs.sampleUnits + 1 = 3 * s.regs.pulseLen ∧
      SampleEnds (m.isStop = true) s.regs u.regs) := by
  have hui : u.Inv := step_keeps_inv (s := { s with moves := m :: ms }) hs hu
  have hcases : (m.isTick = false ∧ u.regs = s.regs) ∨
      (m.isTick = true ∧ ∃ i, (fetch { s with moves := m :: ms }).1 = some i ∧ UnitEnds m.isStop i s.regs u.regs) :=
    step_counting (s := { s with moves := m :: ms }) hf hm hu
  rcases hcases with ⟨htick, hregs⟩ | ⟨htick, i, -, hends⟩ <;> rw [htick]
  · rw [hregs]
    exact .inl ⟨.refl _, hf, rfl⟩
  · exact (hends.advances hs.2 hui.2).imp_right fun h => ⟨rfl, h⟩

/-- Moves without a reset that end no more units than the sample has left: the sample goes on, or it ends with
the last. -/
theorem playMoves_sample {ms : List Move} {s t : State} (hs : s.Inv) (hf : s.regs.fsm = sHigh ∨ s.regs.fsm = sLow)
    (hms : NoResetIn ms) (hle : s.regs.sampleUnits + tickCount ms ≤ 3 * s.regs.pulseLen)
    (ht : playMoves ms s = .next t) :
    (SameSample s.regs t.regs ∧ (t.regs.fsm = sHigh ∨ t.regs.fsm = sLow) ∧
      t.regs.sampleUnits = s.regs.sampleUnits + tickCount ms) ∨
    (s.regs.sampleUnits + tickCount ms = 3 * s.regs.pulseLen ∧
      SampleEnds (∃ m ∈ ms, m.isStop = true) s.regs t.regs) := by
  induction ms generalizing s with
  | nil => cases ht; exact .inl ⟨.refl _, hf, rfl⟩
  | cons m ms ih =>
    obtain ⟨u, hu, hrest⟩ := playMoves_cons_next ht
    obtain ⟨hm, hms'⟩ := List.forall_mem_cons.mp hms
    have hui : u.Inv := step_keeps_inv (s := { s with moves := m :: ms }) hs hu
    rw [tickCount_cons] at hle ⊢
    rcases step_sample hs hf hm hu with ⟨hsame, hf', hunits⟩ | ⟨htick, hlast, hended⟩
    · rw [← Nat.add_assoc, ← hunits, ← hsame.pulseLen_eq] at hle ⊢
      rcases ih hui hf' hms' hle hrest with ⟨hsame', hf'', hunits'⟩ | ⟨hlast, hended⟩
      · exact .inl ⟨hsame.trans hsame', hf'', hunits'⟩
      · exact .inr ⟨hlast, hended.of_same hsame fun ⟨m', hm', hstop⟩ => ⟨m', List.mem_cons_of_mem _ hm', hstop⟩⟩
    · rw [htick, Bool.toNat_true] at hle ⊢
      have hrest0 : tickCount ms = 0 := by omega
      obtain ⟨t', ht', hregs, -⟩ := playMoves_hold hui.1 (hui.2.holds_of_no_tick hended.fsm_ne_sInit hms' hrest0)
      cases hrest.symm.trans ht'
      rw [hregs, hrest0]
      exact .inr ⟨hlast, hended.of_same (.refl _) fun hstop => ⟨m, List.mem_cons_self, hstop⟩⟩

/-- A pulse that has just begun. -/
theorem Regs.Inv.sampleUnits_begun {r : Regs} (h : r.Inv) (hf : r.fsm = sHigh) (hrem : r.rem = r.onLen) :
    r.sampleUnits = r.p.toNat * r.pulseLen := by
  obtain ⟨-, hunits⟩ := h.pulseUnits_high hf
  rw [hrem] at hunits
  rw [Regs.sampleUnits, Nat.add_eq_right.mp hunits, Nat.add_zero]

/-- In a sample `cycle` counts the pulses that have ended since the publish (I6). -/
theorem SameSample.cycle_succ {r r' : Regs} (hsame : SameSample r r') (h : r.Inv) (h' : r'.Inv)
    (hf : r.fsm = sHigh ∨ r.fsm = sLow) (hf' : r'.fsm = sHigh ∨ r'.fsm = sLow) (hp : r'.p.toNat = r.p.toNat + 1) :
    r'.cycle = r.cycle + 1#64 := by
  obtain ⟨-, -, -, -, -, hc⟩ := h.i6 hf
  obtain ⟨-, -, -, -, -, hc'⟩ := h'.i6 hf'
  rw [hc', hc, hsame.stCycle, BitVec.add_assoc]
  refine congrArg (r.stCycle + ·) (BitVec.eq_of_toNat_eq ?_)
  simp [hp]

end Sys2Proof.Machine

namespace Sys2Proof.Claims

open Machine

/-- Settles O47: the sample's units by induction over the moves; what shows is their quotient and remainder. -/
theorem sampleLastsThreePulses : Obligations.SampleLastsThreePulses := by
  intro ms s hs hf hp hrem hms
  obtain ⟨t, ht, hti⟩ := hs.playMoves_next ms
  have hbegun : s.regs.sampleUnits = 0 := by
    rw [hs.2.sampleUnits_begun hf hrem, hp]
    exact Nat.zero_mul _
  have hplay := playMoves_sample hs (.inl hf) hms (t := t)
  have hlen := hs.2.pulseLen_cases (.inl hf)
  rw [hbegun, Nat.zero_add] at hplay
  change ∃ t, _ ∧ (3 * s.regs.pulseLen = 6 ∨ 3 * s.regs.pulseLen = 9) ∧ _
  refine ⟨t, ht, by omega, fun hlt => ?during, fun heq => ?after⟩
  case during =>
    rcases hplay hlt.le ht with ⟨hsame, hf', hunits⟩ | ⟨hlast, -⟩
    · have hdiv := hti.2.p_eq_div hf'
      have hmod := hti.2.outQ_iff hf'
      rw [hti.2.pulseUnits_eq_mod hf', hsame.onLen] at hmod
      rw [hunits, hsame.pulseLen_eq] at hdiv hmod
      exact ⟨hsame.phase, hsame.stIndex, hsame.stValue, hsame.stDuty, hsame.stCycle, hsame.onLen, hsame.offLen,
        hdiv, hmod⟩
    · exact absurd hlast hlt.ne
  case after =>
    have hcyc : s.regs.cycle = s.regs.stCycle := by
      obtain ⟨-, -, -, -, -, hc⟩ := hs.2.i6 (.inl hf)
      rw [hc, hp]
      exact BitVec.add_zero _
    rcases hplay heq.le ht with ⟨hsame, hf', hunits⟩ | ⟨-, hended⟩
    · have hlt := hti.2.sampleUnits_lt hf'
      rw [hunits, hsame.pulseLen_eq] at hlt
      exact absurd heq hlt.ne
    · refine ⟨hended.phase, hcyc ▸ hended.cycle, ?_⟩
      exact hended.next.imp (fun ⟨h1, _, h2, h3, h4⟩ => ⟨h1, h2, h3, h4⟩) (fun ⟨h1, _, h2, h3⟩ => ⟨h1, h2, h3⟩)

/-- Settles O46: the pulse is the part of its sample from `p` times its length on. -/
theorem pulseWaveform : Obligations.PulseWaveform := by
  intro ms s hs hf hrem hms
  obtain ⟨t, ht, hti⟩ := hs.playMoves_next ms
  have hlen : s.regs.pulseLen = s.regs.onLen.toNat + s.regs.offLen.toNat := rfl
  have hplay := playMoves_sample hs (.inl hf) hms (t := t)
  have hp := hs.2.p_le (.inl hf)
  have hroom : (s.regs.p.toNat + 1) * s.regs.pulseLen ≤ 3 * s.regs.pulseLen := Nat.mul_le_mul_right _ (by omega)
  rw [Nat.succ_mul] at hroom
  rw [hs.2.sampleUnits_begun hf hrem] at hplay
  have during : tickCount ms < s.regs.pulseLen → (pwmOut t = true ↔ tickCount ms < s.regs.onLen.toNat) := by
    intro hlt
    rcases hplay (by omega) ht with ⟨hsame, hf', hunits⟩ | ⟨hlast, -⟩
    · have hout := hti.2.outQ_iff hf'
      rwa [hti.2.pulseUnits_eq_mod hf', hunits, hsame.pulseLen_eq, hsame.onLen, Nat.mul_add_mod_self_right,
        Nat.mod_eq_of_lt hlt] at hout
    · omega
  refine ⟨t, ht, fun hlt => (during (by omega)).mpr hlt, fun hge hlt => ?low, fun heq => ?after⟩
  case low => exact Bool.eq_false_iff.mpr (mt (during hlt).mp (by omega))
  case after =>
    rw [← hlen] at heq
    rw [heq] at hplay
    rcases hplay hroom ht with ⟨hsame, hf', hunits⟩ | ⟨hlast, hended⟩
    · rw [← Nat.succ_mul, ← hsame.pulseLen_eq] at hunits
      have hmod := hti.2.pulseUnits_eq_mod hf'
      have hdiv := hti.2.p_eq_div hf'
      have hpos : 0 < t.regs.pulseLen := Nat.zero_lt_of_lt (hti.2.pulseUnits_lt hf')
      rw [hunits, Nat.mul_mod_left] at hmod
      rw [hunits, Nat.mul_div_cancel _ hpos] at hdiv
      obtain ⟨hhigh, hfull⟩ := hti.2.begins_of_pulseUnits hf' hmod
      exact .inl ⟨hti.2.i3.mpr hhigh, hhigh, hfull, hsame.cycle_succ hs.2 hti.2 (.inl hf) hf' hdiv⟩
    · rw [← Nat.succ_mul] at hlast
      have hpos : 0 < s.regs.pulseLen := Nat.zero_lt_of_lt (hs.2.pulseUnits_lt (.inl hf))
      have hp2 : s.regs.p = 2#2 := BitVec.eq_of_toNat_eq (Nat.succ.inj (Nat.mul_right_cancel hpos hlast))
      have hcyc := hended.cycle.trans (hs.2.cycle_last (.inl hf) hp2).symm
      exact hended.next.imp (fun ⟨hhigh, hout, _, hfull, _⟩ => ⟨hout, hhigh, hfull, hcyc⟩)
        (fun ⟨hdone, hout, _, _⟩ => ⟨hout, hdone, hp2, hcyc⟩)

end Sys2Proof.Claims

/-! PROOFS, the numbering of the samples and its periods (41_pwm_sequencer.md R144, R145). -/

namespace Sys2Proof.Machine

open Claims

/-! ## The numbers modulo their widths -/

theorem ofNat_eq_ofNat_iff {w a b : Nat} : BitVec.ofNat w a = BitVec.ofNat w b ↔ a % 2 ^ w = b % 2 ^ w := by
  rw [← BitVec.toNat_inj, BitVec.toNat_ofNat, BitVec.toNat_ofNat]

/-- The index of the phase of sample `n` (R144). -/
theorem sineIndexOf_ofNat (n : Nat) : sineIndexOf (BitVec.ofNat 32 n) = BitVec.ofNat 11 (n / 256) := by
  have hmask := Nat.and_two_pow_sub_one_eq_mod (n % 2 ^ 32 / 2 ^ 8) 11
  refine BitVec.eq_of_toNat_eq ?_
  rw [sineIndexOf_toNat, BitVec.toNat_ofNat, BitVec.toNat_ofNat, Nat.shiftRight_eq_div_pow]
  refine hmask.trans ?_
  omega

/-- The indices repeat after 2^19 samples. -/
theorem index_periodic (n : Nat) : BitVec.ofNat 11 ((n + 524288) / 256) = BitVec.ofNat 11 (n / 256) :=
  ofNat_eq_ofNat_iff.mpr (by omega)

/-- A shorter shift already changes the index of sample 0, or, if it stays in one index, that of sample 255. -/
theorem index_not_periodic {k : Nat} (hpos : 0 < k) (hlt : k < 524288) :
    ∃ n, BitVec.ofNat 11 ((n + k) / 256) ≠ BitVec.ofNat 11 (n / 256) := by
  by_cases hk : k < 256
  · exact ⟨255, fun h => by have hmod := ofNat_eq_ofNat_iff.mp h; omega⟩
  · exact ⟨0, fun h => by have hmod := ofNat_eq_ofNat_iff.mp h; omega⟩

/-! ## The step from sample to sample -/

/-- ARM_START begins sample 0 (R132). -/
theorem inSample_armStart {r : Regs} (h : r.Inv) (hf : r.fsm = sArm) :
    InSample 0 (startSample r.phase r.cycle r) := by
  obtain ⟨hphase, hcycle, -⟩ := h.i5 (.inr hf)
  exact ⟨.inl rfl, hphase, congrArg sineIndexOf hphase, hcycle⟩

/-- SAMPLE_NEXT leads from sample `n` to sample `n + 1` (R138). -/
theorem inSample_sampleNext {r : Regs} {n : Nat} (h : r.Inv) (hn : InSample n r) (hp : r.p = 2#2) :
    InSample (n + 1) (startSample (r.phase + 1#32) (r.cycle + 1#64) (advance r)) := by
  obtain ⟨hf, hphase, -, hcyc⟩ := hn
  have hphase' : r.phase + 1#32 = BitVec.ofNat 32 (n + 1) := by rw [hphase]; exact (BitVec.ofNat_add n 1).symm
  have hcyc' : r.cycle + 1#64 = BitVec.ofNat 64 (3 * (n + 1)) := by
    rw [h.cycle_last hf hp, hcyc]
    exact (BitVec.ofNat_add (3 * n) 3).symm
  exact ⟨.inl rfl, hphase', (congrArg sineIndexOf hphase').trans (sineIndexOf_ofNat _), hcyc'⟩

theorem SameSample.inSample {r r' : Regs} {n : Nat} (hsame : SameSample r r') (hf : r'.fsm = sHigh ∨ r'.fsm = sLow)
    (hn : InSample n r) : InSample n r' := by
  obtain ⟨-, hphase, hindex, hcyc⟩ := hn
  exact ⟨hf, hsame.phase.trans hphase, hsame.stIndex.trans hindex, hsame.stCycle.trans hcyc⟩

/-- A tick that performs neither SAMPLE_NEXT nor SAMPLE_STOP stays in the sample. -/
theorem UnitEnds.sameSample {stop : Bool} {i : Instr} {r r' : Regs} (hu : UnitEnds stop i r r')
    (hnext : i ≠ .sampleNext) (hstop : i ≠ .sampleStop) : SameSample r r' ∧ (r'.fsm = sHigh ∨ r'.fsm = sLow) := by
  cases hu with
  | count hf => exact ⟨⟨rfl, rfl, rfl, rfl, rfl, rfl, rfl⟩, hf⟩
  | lower => exact ⟨⟨rfl, rfl, rfl, rfl, rfl, rfl, rfl⟩, .inr rfl⟩
  | raise => exact ⟨⟨rfl, rfl, rfl, rfl, rfl, rfl, rfl⟩, .inl rfl⟩
  | publish hi => exact absurd hi hnext
  | stop hi => exact absurd hi hstop

/-- SAMPLE_NEXT is selected only in the third pulse. -/
theorem p_of_fetch_sampleNext {s : State} (h : (fetch s).1 = some .sampleNext) : s.regs.p = 2#2 := by
  obtain ⟨rst, tick, stop, -, henc⟩ := fetch_fsm h rfl
  have hp := congrArg dwPIsTwo (OpWord.edge.inj henc)
  rw [dwPIsTwo_pack, dwPIsTwo_pack] at hp
  exact pIsTwo_iff.mp hp.symm

section SampleStep

variable {s t : State} (ht : step s = .next t)

include ht

theorem regs_of_fetch_sampleNext (h : (fetch s).1 = some .sampleNext) :
    t.regs = startSample (s.regs.phase + 1#32) (s.regs.cycle + 1#64) (advance s.regs) := by
  rw [step_of_fetch h] at ht
  obtain ⟨-, r, ho, rfl⟩ := (exec_next_iff rfl).mp ht
  cases ho
  rw [State.setRegs_regs, fetch_regs]

theorem regs_of_fetch_sampleStop (h : (fetch s).1 = some .sampleStop) : t.regs = stopLow (advance s.regs) := by
  rw [step_of_fetch h] at ht
  obtain ⟨-, r, ho, rfl⟩ := (exec_next_iff rfl).mp ht
  cases ho
  rw [State.setRegs_regs, fetch_regs]

/-- Every other step without a reset stays in its sample, a drawn one too. -/
theorem inSample_step {n : Nat} (hn : InSample n s.regs) (hm : (nextMove s).1.isReset = false)
    (hnext : (fetch s).1 ≠ some .sampleNext) (hstop : (fetch s).1 ≠ some .sampleStop) : InSample n t.regs := by
  rcases step_counting hn.1 hm ht with ⟨-, hregs⟩ | ⟨-, i, hi, hu⟩
  · rwa [hregs]
  · obtain ⟨hsame, hf⟩ := hu.sameSample (fun h => hnext (h ▸ hi)) (fun h => hstop (h ▸ hi))
    exact hsame.inSample hf hn

end SampleStep

end Sys2Proof.Machine

namespace Sys2Proof.Claims

open Machine

/-- Settles O48: the sample that each step leads to, and the periods of the numbers modulo their widths. -/
theorem sampleNumbering : Obligations.SampleNumbering := by
  refine ⟨?start, ?next, ?step, index_periodic, fun k => index_not_periodic, ?phase, ?index⟩
  case start =>
    intro s t e p hs hf he
    obtain ⟨-, r, ho, rfl⟩ := (exec_next_iff rfl).mp he
    cases ho
    exact inSample_armStart hs.2 hf
  case next =>
    intro s t n hs hn hp he
    obtain ⟨-, r, ho, rfl⟩ := (exec_next_iff rfl).mp he
    cases ho
    exact inSample_sampleNext hs.2 hn hp
  case step =>
    intro s n hs hn hm
    obtain ⟨t, ht⟩ := hs.step_next
    refine ⟨t, ht, fun h => ?_, fun h => ?_, inSample_step ht hn hm⟩
    · rw [regs_of_fetch_sampleNext ht h]
      exact inSample_sampleNext hs.2 hn (p_of_fetch_sampleNext h)
    · rw [regs_of_fetch_sampleStop ht h]
      exact ⟨rfl, rfl, rfl⟩
  case phase => intro n; exact ofNat_eq_ofNat_iff.mpr (by omega)
  case index => intro n k hk; exact ofNat_eq_ofNat_iff.mpr (by omega)

end Sys2Proof.Claims

/-! PROOFS, the table of the edges: what counts, the transition table, and where `stop` acts
(41_pwm_sequencer.md R141, R146, R147). -/

namespace Sys2Proof.Machine

open Claims

/-! ## The counters -/

/-- No other operation of the sequencer writes `cycle` or `phase` (41_pwm_sequencer.md R141, 10_state.md R22). -/
theorem edgeOp_keeps_counters {i : Instr} {q : Ports} {r r' : Regs} (h : edgeOp i q r = .ok r')
    (hpulse : ∀ st, i ≠ .pulseNext st) (hnext : i ≠ .sampleNext) (hstop : i ≠ .sampleStop) :
    r'.cycle = r.cycle ∧ r'.phase = r.phase := by
  cases i with
  | pulseNext st => exact absurd rfl (hpulse st)
  | sampleNext => exact absurd rfl hnext
  | sampleStop => exact absurd rfl hstop
  | highCount | lowCount => obtain ⟨-, rfl⟩ := countDown_ok_iff.mp h; exact ⟨rfl, rfl⟩
  | highEnd => obtain ⟨-, rfl⟩ := endHigh_ok_iff.mp h; exact ⟨rfl, rfl⟩
  | illegalState5 | illegalState6 | illegalState7 => cases h
  | init | armStart | armStop | reset | holdArm | holdHigh | holdLow | doneHold | rdIndex | rdValue | rdDuty | rdPeriod
  | rdHighEnd | rdPeriodEnd | rdCycle | rdRsvd => cases h; exact ⟨rfl, rfl⟩

theorem exec_keeps_counters {i : Instr} {s t : State} (h : exec i s = .next t) (hreset : ¬IsReset i)
    (hpulse : ∀ st, i ≠ .pulseNext st) (hnext : i ≠ .sampleNext) (hstop : i ≠ .sampleStop) :
    t.regs.cycle = s.regs.cycle ∧ t.regs.phase = s.regs.phase := by
  rcases exec_next_cases h with ⟨hi, -⟩ | ⟨-, r, ho, rfl⟩ | ⟨-, w, rfl⟩
  · exact absurd hi hreset
  · exact edgeOp_keeps_counters ho hpulse hnext hstop
  · exact ⟨rfl, rfl⟩

/-! ## The edge without `stop` -/

/-- The state after the same moves, had the level of `stop` been 0 at the last edge. -/
def State.clearStop (s : State) : State := { s with ports := { s.ports with stop := false } }

/-- An outcome whose next state is seen through `g`. -/
def mapNext (g : State → State) : Result → Result
  | .next s => .next (g s)
  | .fault f => .fault f
  | .refused q => .refused q

@[simp] theorem mapNext_eq_fault_iff {g : State → State} {x : Result} {f : Fault} :
    mapNext g x = .fault f ↔ x = .fault f := by
  cases x <;> simp [mapNext]

/-- `stop` enters an operation through the decode word alone: INIT latches the other inputs. -/
theorem edgeOp_clearStop (i : Instr) (s : State) (r : Regs) :
    edgeOp i s.clearStop.ports r = edgeOp i s.ports r := by cases i <;> rfl

theorem atEdge_clearStop (s : State) (op : Regs → Except Fault Regs) :
    atEdge s.clearStop op = mapNext State.clearStop (atEdge s op) := by
  have hreset : s.clearStop.hasReset = s.hasReset := rfl
  have hregs : s.clearStop.regs = s.regs := rfl
  unfold atEdge
  rw [hreset, hregs]
  cases s.hasReset
  · rfl
  · cases op s.regs <;> rfl

/-- So an operation at an edge keeps the difference in that level and makes no other. -/
theorem exec_clearStop {i : Instr} (hi : i.format = .fsm) (s : State) :
    exec i s.clearStop = mapNext State.clearStop (exec i s) := by
  rcases exec_fsm_forms hi with ⟨t, st, f, e, p, rfl⟩ | hform
  · rfl
  · rw [hform, hform, ← atEdge_clearStop]
    exact congrArg _ (funext (edgeOp_clearStop i s))

/-- `tick` = 1 where `stop` is looked at: in `S_ARM`, and at the end of a sample (41_pwm_sequencer.md R147). -/
def Boundary (rst tick : Bool) (r : Regs) : Prop :=
  rst = false ∧ tick = true ∧ (r.fsm = sArm ∨ (r.fsm = sLow ∧ r.rem = 1#2 ∧ r.p = 2#2))

/-- At any other edge the operations selected with `stop` = 1 and with `stop` = 0 do the same (30_encoding.md R75). -/
theorem exec_ignores_stop {rst tick : Bool} {r : Regs} (h : ¬Boundary rst tick r) (s : State) :
    exec (decodeEdge (packDecodeWord rst tick true r.fsm (remIsOne r) (pIsTwo r))) s =
      exec (decodeEdge (packDecodeWord rst tick false r.fsm (remIsOne r) (pIsTwo r))) s := by
  cases rst with
  | true => rw [decodeEdge_rst, decodeEdge_rst]; rfl
  | false =>
    rcases fsmCode_cases r.fsm with hf | hf | hf | hf | hf | hf | hf | hf <;> rw [hf]
    · rw [decodeEdge_init, decodeEdge_init]; rfl
    · cases tick with
      | true => exact absurd ⟨rfl, rfl, .inl hf⟩ h
      | false => rw [decodeEdge_arm_idle, decodeEdge_arm_idle]; rfl
    · cases tick with
      | true => rw [decodeEdge_high_tick, decodeEdge_high_tick]; cases remIsOne r <;> rfl
      | false => rw [decodeEdge_high_idle, decodeEdge_high_idle]; rfl
    · cases tick with
      | true =>
        rw [decodeEdge_low_tick, decodeEdge_low_tick]
        cases he : remIsOne r with
        | false => rfl
        | true =>
          cases hp : pIsTwo r with
          | false => rfl
          | true => exact absurd ⟨rfl, rfl, .inr ⟨hf, remIsOne_iff.mp he, pIsTwo_iff.mp hp⟩⟩ h
      | false => rw [decodeEdge_low_idle, decodeEdge_low_idle]; rfl
    · rw [decodeEdge_done, decodeEdge_done]; rfl
    · rw [decodeEdge_illegal5, decodeEdge_illegal5]; rfl
    · rw [decodeEdge_illegal6, decodeEdge_illegal6]; rfl
    · rw [decodeEdge_illegal7, decodeEdge_illegal7]; rfl

/-- Off the boundaries the step with `stop` = 0 is the step with `stop` = 1, but for the level of that input. -/
theorem step_clearStop {s : State} {rst tick : Bool} (ms : List Move) (h : ¬Boundary rst tick s.regs) :
    step { s with moves := .edge rst tick false :: ms } =
      mapNext State.clearStop (step { s with moves := .edge rst tick true :: ms }) := by
  rw [step_edge, step_edge, exec_ignores_stop h, ← exec_clearStop (decodeEdge_format _)]
  rfl

/-! ## The transition table -/

/-- An illegal state has no row (60_exceptions.md R182). -/
theorem edgeResult_illegal {s t : State} (hrst : s.ports.rst = false)
    (hf : s.regs.fsm = 5#3 ∨ s.regs.fsm = 6#3 ∨ s.regs.fsm = 7#3) : edgeResult s ≠ .next t := by
  intro h
  rw [edgeResult, decodeWordOf, hrst] at h
  rcases hf with hf | hf | hf <;> rw [hf] at h
  · rw [decodeEdge_illegal5] at h
    obtain ⟨-, r, ho, -⟩ := (exec_next_iff rfl).mp h
    cases ho
  · rw [decodeEdge_illegal6] at h
    obtain ⟨-, r, ho, -⟩ := (exec_next_iff rfl).mp h
    cases ho
  · rw [decodeEdge_illegal7] at h
    obtain ⟨-, r, ho, -⟩ := (exec_next_iff rfl).mp h
    cases ho

end Sys2Proof.Machine

namespace Sys2Proof.Claims

open Machine

/-- Settles O39: the three operations by their own writes, every other by its frame. -/
theorem cycleCountsEndedPulses : Obligations.CycleCountsEndedPulses := by
  intro i s t h
  refine ⟨fun hi => ?reset, ?pulse, ?sample, exec_keeps_counters h⟩
  case reset =>
    rw [exec_reset_regs hi h]
    exact ⟨rfl, rfl⟩
  case pulse =>
    rintro ⟨st, rfl⟩
    obtain ⟨-, r, ho, rfl⟩ := (exec_next_iff rfl).mp h
    obtain ⟨-, -, rfl⟩ := nextPulse_ok_iff.mp ho
    exact ⟨rfl, rfl⟩
  case sample =>
    rintro (rfl | rfl) <;>
    · obtain ⟨-, r, ho, rfl⟩ := (exec_next_iff rfl).mp h
      cases ho
      exact ⟨rfl, rfl⟩

/-- Settles O43: off the boundaries `stop` leaves no trace but its own level. -/
theorem stopActsOnlyAtBoundaries : Obligations.StopActsOnlyAtBoundaries := by
  intro s rst tick ms h
  rw [step_clearStop ms h]
  refine ⟨fun t ht => ?_, fun f => mapNext_eq_fault_iff.symm⟩
  rw [ht]
  rfl

/-- Settles O42, row by row. -/
theorem transitionTable : Obligations.TransitionTable := by
  intro s t h
  cases hrst : s.ports.rst with
  | true =>
    rw [edgeResult] at h
    rw [decodeWordOf, hrst, decodeEdge_rst] at h ⊢
    cases h
    rfl
  | false =>
    obtain ⟨-, hrow⟩ := edge_next_cases hrst h
    rcases hrow with ⟨hf, rfl⟩ | ⟨hf, hidle, rfl⟩ | ⟨hf, ht, hstop, rfl⟩ | ⟨hf, ht, hstop, rfl⟩ | ⟨hf, ht, hrem, rfl⟩ |
      ⟨hf, ht, hrem, -, rfl⟩ | ⟨hf, ht, hrem, hp, -, rfl⟩ | ⟨hf, ht, hrem, hp, hstop, rfl⟩ |
      ⟨hf, ht, hrem, hp, hstop, rfl⟩
    · simp [decodeWordOf, hrst, hf, Instr.row]
    · rcases fsmCode_cases t.regs.fsm with hf' | hf' | hf' | hf' | hf' | hf'
      · exact absurd hf' hf
      · have ht : t.ports.tick = false := hidle.resolve_right (by simp [hf'])
        simp [decodeWordOf, hrst, hf', ht, Instr.row]
      · have ht : t.ports.tick = false := hidle.resolve_right (by simp [hf'])
        simp [decodeWordOf, hrst, hf', ht, Instr.row]
      · have ht : t.ports.tick = false := hidle.resolve_right (by simp [hf'])
        simp [decodeWordOf, hrst, hf', ht, Instr.row]
      · simp [decodeWordOf, hrst, hf', Instr.row]
      · exact absurd h (edgeResult_illegal hrst hf')
    · simp [decodeWordOf, hrst, hf, ht, hstop, Instr.row]
    · simp [decodeWordOf, hrst, hf, ht, hstop, Instr.row]
    · rcases hf with hf | hf <;>
      · simp [decodeWordOf, hrst, hf, ht, remIsOne, hrem, Instr.row]
    · simp [decodeWordOf, hrst, hf, ht, remIsOne, hrem, Instr.row]
    · rcases hp with hp | hp <;>
      · simp [decodeWordOf, hrst, hf, ht, remIsOne, hrem, pIsTwo, hp, Instr.row]
    · simp [decodeWordOf, hrst, hf, ht, remIsOne, hrem, pIsTwo, hp, hstop, Instr.row]
    · simp [decodeWordOf, hrst, hf, ht, remIsOne, hrem, pIsTwo, hp, hstop, Instr.row]

end Sys2Proof.Claims

/-! PROOFS, the operations of the sequencer one by one (41_pwm_sequencer.md R131 to R140). -/

namespace Sys2Proof.Machine

open Claims

/-! ## The row of an operation -/

theorem row_format (i : Instr) : i.row.format = i.format := by cases i <;> rfl

/-- The row of an operation is in the opcode map of its format. -/
theorem row_mem_fsmRows_of_format {i : Instr} (hi : i.format = .fsm) : i.row ∈ fsmRows := by
  cases he : encode i with
  | edge w => exact row_mem_fsmRows he
  | read a => cases hi.symm.trans ((format_eq_read_iff i).mpr ⟨a, he⟩)

theorem selects_edge_iff {row : OpcodeRow} (hrow : row.format = .fsm) (w : DecodeWord) :
    row.selects (.edge w) = true ↔ w &&& row.mask = row.pattern := by
  simp [OpcodeRow.selects, rowMatches, hrow]

/-- A row's mask and match select the decode words of the operations in that row (30_encoding.md R73). -/
theorem row_of_instr (i : Instr) (hi : i.format = .fsm) {P : Instr → Prop} (hP : ∀ j : Instr, j.row = i.row ↔ P j) :
    Row i.row.mask i.row.pattern P := by
  intro w
  rw [← hP, ← selects_edge_iff ((row_format i).trans hi)]
  constructor
  · intro hsel
    have hmem := List.mem_filter (p := fun row => row.selects (.edge w)).mpr
      ⟨row_mem_fsmRows_of_format hi, hsel⟩
    rw [fsmRows_filter_selects] at hmem
    exact (List.mem_singleton.mp hmem).symm
  · intro hrow
    exact hrow ▸ decodeEdge_row_selects w

/-! ## The lengths of a pulse by the percentage of its sample -/

section Lengths

variable {r : Regs} (h : r.Inv) (hf : r.fsm = sHigh ∨ r.fsm = sLow)

include h hf

theorem Regs.Inv.onLen_eq : r.onLen.toNat = if clamped r.stValue ≤ 66 then 1 else 2 := by
  obtain ⟨-, -, -, hon, -⟩ := h.i6 hf
  rw [hon, onTime_eq (clampPercent_bounds _).2, clampPercent_patternPercent]

theorem Regs.Inv.offLen_eq : r.offLen.toNat = if clamped r.stValue ≤ 33 then 2 else 1 := by
  obtain ⟨-, -, -, -, hoff, -⟩ := h.i6 hf
  rw [hoff, offTime_eq (clampPercent_bounds _).1, clampPercent_patternPercent]

end Lengths

theorem clamped_bounds (b : SinePattern) : 20 ≤ clamped b ∧ clamped b ≤ 80 :=
  clampPercent_patternPercent b ▸ clampPercent_bounds (patternPercent b)

theorem not_two_of_illegal {v : BitVec 2} (h : v = 0#2 ∨ v = 3#2) : v ≠ 2#2 := by revert v; decide

theorem illegal_length {v : BitVec 2} (h : v = 0#2 ∨ v = 3#2) : ¬(v = 1#2 ∨ v = 2#2) := by revert v; decide

/-- The line is low outside `S_HIGH` (I3). -/
theorem Regs.Inv.outQ_false {r : Regs} (h : r.Inv) (hf : r.fsm ≠ sHigh) : r.outQ = false :=
  Bool.eq_false_iff.mpr (mt h.i3.mp hf)

theorem eq_two_of_le {v : BitVec 2} (hv : v = 1#2 ∨ v = 2#2) (h : 2#2 ≤ v) : v = 2#2 := by revert v; decide

/-- Two units of a high phase are left only at its beginning, and only in the class of 67 to 80 percent. -/
theorem Regs.Inv.rem_high {r : Regs} (h : r.Inv) (hf : r.fsm = sHigh) :
    r.rem = 1#2 ∨ (r.rem = 2#2 ∧ r.onLen = 2#2 ∧ 67 ≤ clamped r.stValue ∧ clamped r.stValue ≤ 80) := by
  refine (h.rem_cases (.inl hf)).imp_right fun hrem => ?_
  obtain ⟨hon, -⟩ := h.i2 (.inl hf)
  have hon2 : r.onLen = 2#2 := eq_two_of_le hon (hrem ▸ (h.i2High hf).2)
  have hlen := h.onLen_eq (.inl hf)
  rw [hon2] at hlen
  refine ⟨hrem, hon2, ?_, (clamped_bounds _).2⟩
  by_contra hc
  rw [if_pos (by omega)] at hlen
  exact absurd hlen (by decide)

/-- Two units of a low phase are left only at its beginning, and only in the class of 20 to 33 percent. -/
theorem Regs.Inv.rem_low {r : Regs} (h : r.Inv) (hf : r.fsm = sLow) :
    r.rem = 1#2 ∨ (r.rem = 2#2 ∧ r.offLen = 2#2 ∧ 20 ≤ clamped r.stValue ∧ clamped r.stValue ≤ 33) := by
  refine (h.rem_cases (.inr hf)).imp_right fun hrem => ?_
  obtain ⟨-, hoff, -⟩ := h.i2 (.inr hf)
  have hoff2 : r.offLen = 2#2 := eq_two_of_le hoff (hrem ▸ (h.i2Low hf).2)
  have hlen := h.offLen_eq (.inr hf)
  rw [hoff2] at hlen
  refine ⟨hrem, hoff2, (clamped_bounds _).1, ?_⟩
  by_contra hc
  rw [if_neg hc] at hlen
  exact absurd hlen (by decide)

end Sys2Proof.Machine

namespace Sys2Proof.Claims

open Machine

/-- Settles O12: the register function of the holds writes nothing. -/
theorem holdsWriteNothing : Obligations.HoldsWriteNothing := by
  refine ⟨row_of_instr (.holdArm false false false) rfl fun i => ?arm,
    row_of_instr (.holdHigh false false false) rfl fun i => ?high,
    row_of_instr (.holdLow false false false) rfl fun i => ?low, fun st e p s hr => ?writes⟩
  case arm => cases i <;> simp [Instr.row]
  case high => cases i <;> simp [Instr.row]
  case low => cases i <;> simp [Instr.row]
  case writes => exact ⟨exec_next_of_ok rfl hr rfl, exec_next_of_ok rfl hr rfl, exec_next_of_ok rfl hr rfl⟩

/-- Settles O14, by what START_SAMPLE publishes and by sample 0. -/
theorem armStartPublishesFirstSample : Obligations.ArmStartPublishesFirstSample := by
  refine ⟨row_of_instr (.armStart false false) rfl fun i => ?row, fun e p s hr => ?writes, fun e p s hs hf => ?first⟩
  case row => cases i <;> simp [Instr.row]
  case writes =>
    rw [← startSamplePublishes]
    exact exec_next_of_ok rfl hr rfl
  case first =>
    obtain ⟨-, hphase, hindex, hcyc⟩ := inSample_armStart hs.2 hf
    exact ⟨_, exec_next_of_ok rfl hs.1 rfl, hphase, hindex, hcyc⟩

/-- Settles O15: the writes of `stopLow`, and I3 and I5 before them. -/
theorem armStopStops : Obligations.ArmStopStops := by
  refine ⟨row_of_instr (.armStop false false) rfl fun i => ?row, fun e p s hr => exec_next_of_ok rfl hr rfl,
    fun s hs hf => ?before⟩
  case row => cases i <;> simp [Instr.row]
  case before =>
    obtain ⟨hphase, hcycle, -⟩ := hs.2.i5 (.inr hf)
    exact ⟨hs.2.outQ_false (by simp [hf]), hphase, hcycle⟩

/-- Settles O16: the unit counted down, and the high phases of two units. -/
theorem highCountTakesOneUnit : Obligations.HighCountTakesOneUnit := by
  refine ⟨row_of_instr (.highCount false false) rfl fun i => ?row,
    fun st p s hr => ⟨fun hrem => ?unit, fun hrem => ?fault⟩, fun s hs => hs.2.rem_high⟩
  case row => cases i <;> simp [Instr.row]
  case unit => exact exec_next_of_ok rfl hr (countDown_ok_iff.mpr ⟨hrem, rfl⟩)
  case fault => exact exec_fault_of_error rfl hr (countDown_error_iff.mpr ⟨not_two_of_illegal hrem, rfl⟩)

/-- Settles O17, by the two cases of `endHigh`. -/
theorem highEndLowersTheLine : Obligations.HighEndLowersTheLine := by
  refine ⟨row_of_instr (.highEnd false false) rfl fun i => ?row,
    fun st p s hr => ⟨fun hoff => ?low, fun hoff => ?fault⟩⟩
  case row => cases i <;> simp [Instr.row]
  case low => exact exec_next_of_ok rfl hr (endHigh_ok_iff.mpr ⟨hoff, rfl⟩)
  case fault => exact exec_fault_of_error rfl hr (endHigh_error_iff.mpr ⟨illegal_length hoff, rfl⟩)

/-- Settles O18: the unit counted down, and the low phases of two units. -/
theorem lowCountTakesOneUnit : Obligations.LowCountTakesOneUnit := by
  refine ⟨row_of_instr (.lowCount false false) rfl fun i => ?row,
    fun st p s hr => ⟨fun hrem => ?unit, fun hrem => ?fault⟩, fun s hs => hs.2.rem_low⟩
  case row => cases i <;> simp [Instr.row]
  case unit => exact exec_next_of_ok rfl hr (countDown_ok_iff.mpr ⟨hrem, rfl⟩)
  case fault => exact exec_fault_of_error rfl hr (countDown_error_iff.mpr ⟨not_two_of_illegal hrem, rfl⟩)

/-- Settles O19, by the three cases of `nextPulse`. -/
theorem pulseNextCountsAndBegins : Obligations.PulseNextCountsAndBegins := by
  refine ⟨row_of_instr (.pulseNext false) rfl fun i => ?row,
    fun st s hr => ⟨fun hp hon => ?next, fun hp => ?faultP, fun hp hon => ?faultOnLen⟩⟩
  case row => cases i <;> simp [Instr.row]
  case next => exact exec_next_of_ok rfl hr (nextPulse_ok_iff.mpr ⟨hp, hon, rfl⟩)
  case faultP => exact exec_fault_of_error rfl hr (nextPulse_error_iff.mpr (.inl ⟨hp, rfl⟩))
  case faultOnLen =>
    exact exec_fault_of_error rfl hr (nextPulse_error_iff.mpr (.inr ⟨hp, illegal_length hon, rfl⟩))

/-- Settles O20, by what START_SAMPLE publishes after `advance`. -/
theorem sampleNextAdvancesAndPublishes : Obligations.SampleNextAdvancesAndPublishes := by
  refine ⟨row_of_instr .sampleNext rfl fun i => ?row, fun s hr => ?writes, fun s hs hf hp => ?counts⟩
  case row => cases i <;> simp [Instr.row]
  case writes =>
    rw [← startSamplePublishes]
    exact exec_next_of_ok rfl hr rfl
  case counts => exact ⟨_, exec_next_of_ok rfl hs.1 rfl, hs.2.cycle_last (.inr hf) hp⟩

/-- Settles O21: the writes of `stopLow` after `advance`, and I6 before them. -/
theorem sampleStopAdvancesAndStops : Obligations.SampleStopAdvancesAndStops := by
  refine ⟨row_of_instr .sampleStop rfl fun i => ?row, fun s hr => exec_next_of_ok rfl hr rfl,
    fun s hs hf hp => ⟨hs.2.outQ_false (by simp [hf]), ?counts⟩⟩
  case row => cases i <;> simp [Instr.row]
  case counts => exact ⟨_, exec_next_of_ok rfl hs.1 rfl, hs.2.cycle_last (.inr hf) hp⟩

/-- Settles O22: in `S_DONE` a decode word without `rst` selects DONE_HOLD, which writes nothing. -/
theorem doneHoldKeepsAll : Obligations.DoneHoldKeepsAll := by
  refine ⟨row_of_instr (.doneHold false false false false) rfl fun i => ?row,
    fun t st e p s hr => exec_next_of_ok rfl hr rfl,
    fun s hf hrst => ?selected, fun s hs hf => ⟨hs.2.i4.mpr (by simp [hf]), hs.2.outQ_false (by simp [hf])⟩⟩
  case row => cases i <;> simp [Instr.row]
  case selected =>
    rw [decodeWordOf, hrst, hf, decodeEdge_done]
    exact ⟨_, _, _, _, rfl⟩

end Sys2Proof.Claims

/-! PROOFS, the monitor's ratio of the duty word to the period word (42_status_port.md R169). -/

namespace Sys2Proof.Machine

section Addresses

variable (r : Regs)

@[simp] theorem memRead_addrDuty : memRead 2#3 r = wordDuty r := rfl
@[simp] theorem memRead_addrPeriod : memRead 3#3 r = wordPeriod r := rfl

end Addresses

/-- A publish leaves the period that INIT has written (70_reset_and_hazards.md R201). -/
@[simp] theorem startSample_stPeriod (ph : PhaseWord) (cyc : CycleWord) (r : Regs) :
    (startSample ph cyc r).stPeriod = r.stPeriod := rfl

end Sys2Proof.Machine

namespace Sys2Proof.Claims

open Machine

/-- Settles O55: the duty word holds 40 times the percentage, and 4000 is 40 times 100. -/
theorem dutyOverPeriodIsThePercentage : Obligations.DutyOverPeriodIsThePercentage := by
  intro ph cyc r hper
  have hduty : (memRead 2#3 (startSample ph cyc r)).toNat = 40 * pct (startSample ph cyc r).stValue := by
    rw [memRead_addrDuty, wordDuty_toNat, startSample_stDuty]
  have hperiod : (memRead 3#3 (startSample ph cyc r)).toNat = 4000 := by
    rw [memRead_addrPeriod, wordPeriod_toNat, startSample_stPeriod, hper]
    rfl
  rw [hduty, hperiod]
  omega

end Sys2Proof.Claims

/-! PROOFS, the faults: what an edge raises, which states raise nothing, and what a fault ends
(60_exceptions.md R180 to R184). -/

namespace Sys2Proof.Machine

open Claims

/-! ## Every step is answered by the model -/

theorem exec_ne_refused (i : Instr) (s : State) (q : Refusal) : exec i s ≠ .refused q := by
  intro h
  rcases exec_forms i s with ⟨-, he⟩ | ⟨-, w, he⟩ | ⟨-, he⟩
  · cases he.symm.trans h
  · cases he.symm.trans h
  · exact atEdge_ne_refused s _ q (he.symm.trans h)

theorem step_ne_refused (s : State) (q : Refusal) : step s ≠ .refused q := by
  unfold step
  rcases fetch s with ⟨_ | i, u⟩
  · intro h; cases h
  · exact exec_ne_refused i u q

/-! ## ILLEGAL_STATE -/

/-- An illegal operation raises the fault of the `fsm` register's code (60_exceptions.md R182). -/
theorem exec_illegal {i : Instr} {s : State} (hi : IsIllegal i) (hr : s.hasReset = true) :
    exec i s = .fault (.illegalState s.regs.fsm) := by
  obtain ⟨t, st, e, p, rfl | rfl | rfl⟩ := hi <;> exact exec_fault_of_error rfl hr rfl

/-! ## The fault table -/

/-- The faults of 60_exceptions.md R181 other than NoReset, at an edge without `rst`; of PULSE_NEXT's two registers `p` is
the first to fail (41_pwm_sequencer.md R137). -/
def TableFault (tick : Bool) (r : Regs) (f : Fault) : Prop :=
  ((r.fsm = 5#3 ∨ r.fsm = 6#3 ∨ r.fsm = 7#3) ∧ f = .illegalState r.fsm) ∨
  (tick = true ∧
    (((r.fsm = sHigh ∨ r.fsm = sLow) ∧ (r.rem = 0#2 ∨ r.rem = 3#2) ∧ f = .invariantFault (.rem r.rem)) ∨
     (r.fsm = sHigh ∧ r.rem = 1#2 ∧ (r.offLen = 0#2 ∨ r.offLen = 3#2) ∧ f = .invariantFault (.offLen r.offLen)) ∨
     (r.fsm = sLow ∧ r.rem = 1#2 ∧ r.p = 3#2 ∧ f = .invariantFault (.p r.p)) ∨
     (r.fsm = sLow ∧ r.rem = 1#2 ∧ (r.p = 0#2 ∨ r.p = 1#2) ∧ (r.onLen = 0#2 ∨ r.onLen = 3#2) ∧
       f = .invariantFault (.onLen r.onLen))))

theorem illegal_length_iff {v : BitVec 2} : ¬(v = 1#2 ∨ v = 2#2) ↔ v = 0#2 ∨ v = 3#2 := by revert v; decide

section Selected

variable {r : Regs} {f : Fault}

theorem illegalFsm_error_iff : illegalFsm r = .error f ↔ f = .illegalState r.fsm :=
  ⟨fun h => (Except.error.inj h).symm, fun h => congrArg _ h.symm⟩

/-- HIGH_COUNT and LOW_COUNT, selected where `rem` is not 1. -/
theorem countDown_error_selected (he : r.rem ≠ 1#2) :
    countDown r = .error f ↔ (r.rem = 0#2 ∨ r.rem = 3#2) ∧ f = .invariantFault (.rem r.rem) := by
  rw [countDown_error_iff, ← illegal_length_iff, not_or, and_iff_right he]

/-- PULSE_NEXT, selected where `p` is not 2. -/
theorem nextPulse_error_selected (hp : r.p ≠ 2#2) :
    nextPulse r = .error f ↔
      (r.p = 3#2 ∧ f = .invariantFault (.p r.p)) ∨
      ((r.p = 0#2 ∨ r.p = 1#2) ∧ (r.onLen = 0#2 ∨ r.onLen = 3#2) ∧ f = .invariantFault (.onLen r.onLen)) := by
  have hthree : ∀ p : BitVec 2, p ≠ 2#2 → (¬(p = 0#2 ∨ p = 1#2) ↔ p = 3#2) := by decide
  rw [nextPulse_error_iff, hthree r.p hp, illegal_length_iff]

variable (q : Ports) (stop p : Bool)

/-- A tick in `S_HIGH`. -/
theorem highTick_error_iff :
    edgeOp (if remIsOne r then .highEnd stop p else .highCount stop p) q r = .error f ↔
      ((r.rem = 0#2 ∨ r.rem = 3#2) ∧ f = .invariantFault (.rem r.rem)) ∨
      (r.rem = 1#2 ∧ (r.offLen = 0#2 ∨ r.offLen = 3#2) ∧ f = .invariantFault (.offLen r.offLen)) := by
  by_cases he : r.rem = 1#2
  · rw [if_pos (remIsOne_iff.mpr he), ← illegal_length_iff (v := r.offLen)]
    simpa [he, edgeOp] using endHigh_error_iff
  · rw [if_neg (mt remIsOne_iff.mp he)]
    simpa [he, edgeOp] using countDown_error_selected he

/-- A tick in `S_LOW`. -/
theorem lowTick_error_iff :
    edgeOp (if remIsOne r then (if pIsTwo r then (if stop then .sampleStop else .sampleNext) else .pulseNext stop)
        else .lowCount stop p) q r = .error f ↔
      ((r.rem = 0#2 ∨ r.rem = 3#2) ∧ f = .invariantFault (.rem r.rem)) ∨
      (r.rem = 1#2 ∧ r.p = 3#2 ∧ f = .invariantFault (.p r.p)) ∨
      (r.rem = 1#2 ∧ (r.p = 0#2 ∨ r.p = 1#2) ∧ (r.onLen = 0#2 ∨ r.onLen = 3#2) ∧
        f = .invariantFault (.onLen r.onLen)) := by
  by_cases he : r.rem = 1#2
  · rw [if_pos (remIsOne_iff.mpr he)]
    by_cases hp : r.p = 2#2
    · rw [if_pos (pIsTwo_iff.mpr hp)]
      cases stop <;> simp [he, hp, edgeOp]
    · rw [if_neg (mt pIsTwo_iff.mp hp)]
      simpa [he, edgeOp] using nextPulse_error_selected hp
  · rw [if_neg (mt remIsOne_iff.mp he)]
    simpa [he, edgeOp] using countDown_error_selected he

end Selected

/-- The operation of an edge without `rst` faults exactly as the table says, state by state. -/
theorem edgeOp_error_iff_tableFault {r : Regs} {f : Fault} (q : Ports) (tick stop : Bool) :
    edgeOp (decodeEdge (packDecodeWord false tick stop r.fsm (remIsOne r) (pIsTwo r))) q r = .error f ↔
      TableFault tick r f := by
  unfold TableFault
  rcases fsmCode_cases r.fsm with hf | hf | hf | hf | hf | hf | hf | hf <;> rw [hf]
  -- INIT and `S_ARM` cannot fault
  · simp [edgeOp, sInit, sHigh, sLow]
  · cases tick
    · simp [edgeOp, sArm]
    · cases stop <;> simp [edgeOp, sArm, sHigh, sLow]
  -- while units are counted, a tick edge can
  · cases tick
    · simp [edgeOp, sHigh]
    · rw [decodeEdge_high_tick, highTick_error_iff]
      simp [sHigh, sLow]
  · cases tick
    · simp [edgeOp, sLow]
    · rw [decodeEdge_low_tick, lowTick_error_iff]
      simp [sHigh, sLow]
  -- nor can `S_DONE`
  · simp [edgeOp, sDone, sHigh, sLow]
  -- the illegal codes
  all_goals simp [edgeOp, illegalFsm_error_iff, hf, sHigh, sLow]

/-- Without `rst` no edge selects RESET (30_encoding.md R75). -/
theorem not_isReset_of_rst {w : DecodeWord} (hw : dwRst w = false) : ¬IsReset (decodeEdge w) := by
  rintro ⟨t, s, f, e, p, hi⟩
  have henc := encode_decodeEdge w
  rw [hi] at henc
  rw [← OpWord.edge.inj henc, dwRst_pack] at hw
  cases hw

/-- The faults of a listed edge: none with `rst`, and without it NoReset before the table's. -/
theorem step_edge_fault_iff {s : State} {rst tick stop : Bool} {ms : List Move} {f : Fault}
    (h : s.moves = .edge rst tick stop :: ms) :
    step s = .fault f ↔ rst = false ∧
      ((s.hasReset = false ∧ f = .noReset) ∨ (s.hasReset = true ∧ TableFault tick s.regs f)) := by
  rw [step_cons h]
  change exec (decodeEdge (packDecodeWord rst tick stop s.regs.fsm (remIsOne s.regs) (pIsTwo s.regs)))
    (s.driven (.edge rst tick stop) ms) = .fault f ↔ _
  cases rst with
  | true =>
    rw [decodeEdge_rst]
    exact iff_of_false (fun he => nomatch he) (fun he => nomatch he.1)
  | false =>
    have hop := (exec_fsm_forms (decodeEdge_format _)).resolve_left
      (not_isReset_of_rst (dwRst_pack false tick stop s.regs.fsm (remIsOne s.regs) (pIsTwo s.regs)))
    rw [exec_fault_iff (hop _), and_iff_right rfl,
      ← edgeOp_error_iff_tableFault (drive (.edge false tick stop) s.ports) tick stop]
    rfl

/-- A listed read or CFG completes (42_status_port.md R160, 30_encoding.md R83). -/
theorem step_next_of_not_edge {s : State} {a : PortAddr} {pin carrier sine : CfgWord} {ms : List Move}
    (h : s.moves = .read a :: ms ∨ s.moves = .cfg pin carrier sine :: ms) : ∃ t, step s = .next t := by
  rcases h with h | h
  · exact ⟨_, (step_cons h).trans (exec_decodeRead a _)⟩
  · exact ⟨_, step_cons h⟩

/-! ## Runs -/

theorem run_succ_of_next {s t : State} (k : Nat) (h : step s = .next t) :
    Sys2Proof.core.run (k + 1) s = Sys2Proof.core.run k t := by
  simp only [Host.Core.run]
  rw [show Sys2Proof.core.step s = .next t from h]

theorem run_succ_of_fault {s : State} {f : Fault} (k : Nat) (h : step s = .fault f) :
    Sys2Proof.core.run (k + 1) s = .fault f := by
  simp only [Host.Core.run]
  rw [show Sys2Proof.core.step s = .fault f from h]

/-- A fault stays the outcome of the run, however many steps are asked for (60_exceptions.md R181). -/
theorem run_add_of_fault {j : Nat} (k : Nat) {s : State} {f : Fault} (h : Sys2Proof.core.run j s = .fault f) :
    Sys2Proof.core.run (j + k) s = .fault f := by
  induction j generalizing s with
  | zero => cases h
  | succ j ih =>
    rw [Nat.succ_add]
    cases hs : step s with
    | next t =>
      rw [run_succ_of_next _ hs] at h ⊢
      exact ih h
    | fault g =>
      rw [run_succ_of_fault _ hs] at h ⊢
      exact h
    | refused q => exact absurd hs (step_ne_refused s q)

end Sys2Proof.Machine

namespace Sys2Proof.Claims

open Machine

/-- Settles O33: an edge by its register function, state by state; a run by induction over its steps. -/
theorem faultsAreExactlyTheTable : Obligations.FaultsAreExactlyTheTable := by
  refine ⟨fun _ _ _ _ _ _ => step_edge_fault_iff, fun s a pin carrier sine ms f h hf => ?other,
    fun _ k _ _ => run_add_of_fault k⟩
  case other =>
    obtain ⟨t, ht⟩ := step_next_of_not_edge h
    cases ht.symm.trans hf

/-- Settles O36, by progress under the invariants and the forms of an operation. -/
theorem noStepFailsUnderInvariants : Obligations.NoStepFailsUnderInvariants :=
  ⟨fun _ hs => hs.step_next, step_ne_refused⟩

/-- Settles O23: an illegal operation would stop an edge that the invariants let complete. -/
theorem illegalStateStops : Obligations.IllegalStateStops := by
  refine ⟨row_of_instr (.illegalState5 false false false false) rfl fun i => ?row5,
    row_of_instr (.illegalState6 false false false false) rfl fun i => ?row6,
    row_of_instr (.illegalState7 false false false false) rfl fun i => ?row7,
    fun _ _ => exec_illegal, fun s hs hi => ?unselected, fun s hrst => ?reset⟩
  case row5 | row6 | row7 => cases i <;> simp [Instr.row]
  case unselected =>
    obtain ⟨t, ht⟩ := hs.edgeResult_next
    cases (exec_illegal hi hs.1).symm.trans ht
  case reset =>
    rw [edgeResult, decodeWordOf, hrst, decodeEdge_rst]
    rfl

end Sys2Proof.Claims

/-! PROOFS, reset, start-up and what the status port shows of a publish (70_reset_and_hazards.md R200 to R210). -/

namespace Sys2Proof.Machine

open Claims

/-! ## Reset and INIT -/

/-- No edge but a reset writes `S_INIT`. -/
theorem EdgeWrites.of_init {q : Ports} {r r' : Regs} {i : Instr} (h : EdgeWrites q r i r') (hf : r'.fsm = sInit) :
    r.fsm = sInit := by
  cases h with
  | keep | countUnit => exact hf
  | latch | lowerLine | raiseLine | publish | stop => simp at hf

/-- Only RESET leads back to `S_INIT` (70_reset_and_hazards.md R201). -/
theorem isReset_of_exec_init {i : Instr} {s t : State} (h : exec i s = .next t) (hs : s.regs.fsm ≠ sInit)
    (ht : t.regs.fsm = sInit) : IsReset i := by
  rcases exec_regs_cases h with ⟨hi, -⟩ | ⟨-, -, hw⟩ | ⟨-, hregs, -⟩
  · exact hi
  · exact absurd (hw.of_init ht) hs
  · exact absurd (hregs ▸ ht) hs

/-- In `S_INIT` an edge without `rst` is INIT, whatever `tick` and `stop` (70_reset_and_hazards.md R202). -/
theorem step_init {s : State} (hr : s.hasReset = true) (hf : s.regs.fsm = sInit) (tick stop : Bool) (ms : List Move) :
    ∃ t, step { s with moves := .edge false tick stop :: ms } = .next t ∧ t.regs = initRegs s.ports s.regs ∧
      t.hasReset = true := by
  rw [step_edge, hf, decodeEdge_init]
  exact ⟨_, exec_next_of_ok rfl hr rfl, rfl, hr⟩

/-- A tick in `S_ARM` starts the first sample or stops (70_reset_and_hazards.md R202). -/
theorem step_arm_tick {s : State} (hr : s.hasReset = true) (hf : s.regs.fsm = sArm) (stop : Bool) (ms : List Move) :
    ∃ t, step { s with moves := .edge false true stop :: ms } = .next t ∧
      t.regs = if stop then stopLow s.regs else startSample s.regs.phase s.regs.cycle s.regs := by
  rw [step_edge, hf, decodeEdge_arm_tick]
  cases stop with
  | true => exact ⟨_, exec_next_of_ok (i := .armStop _ _) rfl hr rfl, rfl⟩
  | false => exact ⟨_, exec_next_of_ok (i := .armStart _ _) rfl hr rfl, rfl⟩

/-- From the reset registers INIT's writes stand until the first tick. -/
theorem playMoves_boot {s : State} (hr : s.hasReset = true) (hs : s.regs = Regs.reset) (tick stop : Bool)
    {idles : List Move} (hidles : NoResetIn idles) (hticks : tickCount idles = 0) :
    ∃ u, playMoves (.edge false tick stop :: idles) s = .next u ∧ u.regs = initRegs s.ports Regs.reset ∧
      u.hasReset = true := by
  obtain ⟨v, hv, hregs, hr'⟩ := step_init hr (hs ▸ rfl) tick stop idles
  rw [hs] at hregs
  have hinv : v.regs.Inv := hregs ▸ initRegs_inv s.ports reset_inv rfl
  obtain ⟨u, hu, hkept, hr''⟩ :=
    playMoves_hold hr' (hinv.holds_of_no_tick (by rw [hregs, initRegs_fsm]; simp) hidles hticks)
  rw [playMoves_cons, hv]
  exact ⟨u, hu, hkept.trans hregs, hr''⟩

/-! ## The status port before the first publish -/

/-- Every status register but `ST_PERIOD` holds 0 (70_reset_and_hazards.md R210). -/
structure Regs.Unpublished (r : Regs) : Prop where
  stIndex : r.stIndex = 0#11
  stValue : r.stValue = 0#16
  stDuty : r.stDuty = 0#12
  stHighEnd : r.stHighEnd = 0#32
  stPeriodEnd : r.stPeriodEnd = 0#32
  stCycle : r.stCycle = 0#64

/-- Before the first sample nothing is published (I5). -/
theorem Regs.Inv.unpublished {r : Regs} (h : r.Inv) (hf : r.fsm = sInit ∨ r.fsm = sArm) : r.Unpublished := by
  obtain ⟨-, -, -, -, -, -, hindex, hvalue, hduty, hhigh, hperiod, hcyc⟩ := h.i5 hf
  exact ⟨hindex, hvalue, hduty, hhigh, hperiod, hcyc⟩

/-- Nor does a stop publish (41_pwm_sequencer.md R133). -/
theorem Regs.Unpublished.stopLow {r : Regs} (h : r.Unpublished) : (stopLow r).Unpublished :=
  ⟨h.stIndex, h.stValue, h.stDuty, h.stHighEnd, h.stPeriodEnd, h.stCycle⟩

theorem Regs.Unpublished.memRead_eq {r : Regs} (h : r.Unpublished) (a : PortAddr) :
    memRead a r = if a = 3#3 then r.stPeriod.zeroExtend 64 else 0#64 := by
  have hindex : wordIndex r = 0#64 := by rw [wordIndex, h.stIndex]; rfl
  have hvalue : wordValue r = 0#64 := by rw [wordValue, h.stValue]; rfl
  have hduty : wordDuty r = 0#64 := by rw [wordDuty, h.stDuty]; rfl
  have hhigh : wordHighEnd r = 0#64 := by rw [wordHighEnd, h.stHighEnd]; rfl
  have hperiod : wordPeriodEnd r = 0#64 := by rw [wordPeriodEnd, h.stPeriodEnd]; rfl
  have hcyc : wordCycle r = 0#64 := h.stCycle
  by_cases ha : a = 3#3
  · rw [ha, if_pos rfl, memRead_addrPeriod, wordPeriod]
  · rw [if_neg ha, memRead, if_neg ha, hindex, hvalue, hduty, hhigh, hperiod, hcyc, wordReserved]
    simp only [ite_self]

/-! ## Equal values of `ST_CYCLE` -/

theorem SamePublished.trans {r r' r'' : Regs} (h : SamePublished r r') (h' : SamePublished r' r'') :
    SamePublished r r'' := by
  obtain ⟨hindex, hvalue, hduty, hcyc⟩ := h
  obtain ⟨hindex', hvalue', hduty', hcyc'⟩ := h'
  exact ⟨hindex'.trans hindex, hvalue'.trans hvalue, hduty'.trans hduty, hcyc'.trans hcyc⟩

/-- The first sample has been started, or the sequencer has stopped. -/
def Regs.Started (r : Regs) : Prop := r.fsm = sHigh ∨ r.fsm = sLow ∨ r.fsm = sDone

theorem Regs.Inv.started {r : Regs} (h : r.Inv) (hinit : r.fsm ≠ sInit) (harm : r.fsm ≠ sArm) : r.Started :=
  (h.i1.resolve_left hinit).resolve_left harm

/-- A tick while units are counted publishes nothing, or it publishes the count that it has just raised. -/
theorem UnitEnds.keeps_or_publishes {stop : Bool} {i : Instr} {r r' : Regs} (hu : UnitEnds stop i r r') :
    r'.Started ∧ (SamePublished r r' ∨ r'.stCycle = r.cycle + 1#64) := by
  cases hu with
  | count hf => exact ⟨or_assoc.mp (.inl hf), .inl ⟨rfl, rfl, rfl, rfl⟩⟩
  | lower => exact ⟨.inr (.inl rfl), .inl ⟨rfl, rfl, rfl, rfl⟩⟩
  | raise => exact ⟨.inl rfl, .inl ⟨rfl, rfl, rfl, rfl⟩⟩
  | publish => exact ⟨.inl rfl, .inr rfl⟩
  | stop => exact ⟨.inr (.inr rfl), .inl ⟨rfl, rfl, rfl, rfl⟩⟩

/-- A listed move without a reset, once the first sample has been started; only a tick publishes. -/
theorem step_started {m : Move} {ms : List Move} {s u : State} (hr : s.hasReset = true) (hs : s.regs.Started)
    (hm : m.isReset = false) (hu : step { s with moves := m :: ms } = .next u) :
    u.regs.Started ∧
      (SamePublished s.regs u.regs ∨ (m.isTick = true ∧ u.regs.stCycle = s.regs.cycle + 1#64)) := by
  rcases or_assoc.mpr hs with hf | hf
  · rcases step_counting (s := { s with moves := m :: ms }) hf hm hu with ⟨-, hregs⟩ | ⟨htick, i, -, hends⟩
    · exact ⟨hregs.symm ▸ hs, .inl (.of_eq hregs)⟩
    · obtain ⟨hs', hpub⟩ := hends.keeps_or_publishes
      exact ⟨hs', hpub.imp_right fun hcyc => ⟨htick, hcyc⟩⟩
  · obtain ⟨u', hu', hregs, -⟩ := step_hold (ms := ms) hr (m := m) ⟨hm, .inr hf⟩
    cases hu.symm.trans hu'
    exact ⟨hregs.symm ▸ hs, .inl (.of_eq hregs)⟩

/-- Short of a wrap the raised count is above `ST_CYCLE`. -/
theorem lt_cycle_succ {st cyc : CycleWord} (hle : st ≤ cyc) (hwrap : cyc.toNat + 1 < 2 ^ 64) : st < cyc + 1#64 := by
  rw [BitVec.le_def] at hle
  rw [BitVec.lt_def, BitVec.toNat_add_of_lt hwrap, BitVec.toNat_ofNat]
  omega

/-- Short of a wrap and without a reset, moves keep the published fields or raise `ST_CYCLE`
(70_reset_and_hazards.md R209). -/
theorem playMoves_keeps_or_raises {ms : List Move} {s t : State} (hi : s.Inv) (hs : s.regs.Started)
    (hle : s.regs.stCycle ≤ s.regs.cycle) (hwrap : s.regs.cycle.toNat + tickCount ms < 2 ^ 64) (hms : NoResetIn ms)
    (h : playMoves ms s = .next t) : SamePublished s.regs t.regs ∨ s.regs.stCycle < t.regs.stCycle := by
  induction ms generalizing s with
  | nil => cases h; exact .inl (.of_eq rfl)
  | cons m ms ih =>
    obtain ⟨u, hu, hrest⟩ := playMoves_cons_next h
    obtain ⟨hm, hms'⟩ := List.forall_mem_cons.mp hms
    have hcounts : CountsPulse m.isTick s.regs u.regs := step_countsPulse hu hm
    have hui : u.Inv := step_keeps_inv (s := { s with moves := m :: ms }) hi hu
    rw [tickCount_cons] at hwrap
    obtain ⟨hcycle, -, hle'⟩ := hcounts.bounds hle (by omega)
    obtain ⟨hs', hpub⟩ := step_started hi.1 hs hm hu
    rcases hpub with hsame | ⟨htick, hcyc⟩
    · have hlater := ih hui hs' hle' (by omega) hms' hrest
      have ⟨_, _, _, hkept⟩ := hsame
      rw [hkept] at hlater
      exact hlater.imp_left hsame.trans
    · have hone : m.isTick.toNat = 1 := congrArg Bool.toNat htick
      have hraised : s.regs.stCycle < u.regs.stCycle := hcyc ▸ lt_cycle_succ hle (by omega)
      obtain ⟨hkept, -⟩ := playMoves_stCycle_le hle' (by omega) hms' hrest
      rw [BitVec.lt_def] at hraised ⊢
      exact .inr (hraised.trans_le hkept)

end Sys2Proof.Machine

namespace Sys2Proof.Claims

open Machine

/-- Settles O26: I5 in `S_INIT` and `S_ARM`; after ARM_STOP every move without a reset is a hold. -/
theorem unpublishedStatusReadsZero : Obligations.UnpublishedStatusReadsZero := by
  refine ⟨fun s a hs hf => ?before, fun s e p ms a hs hf hms => ?stopped⟩
  case before =>
    refine ⟨_, exec_decodeRead a s, rfl, ?_⟩
    change memRead a s.regs = _
    rw [(hs.2.unpublished hf).memRead_eq]
    rcases hf with hf | hf
    · simp [hf, hs.2.i4Zero hf]
    · simp [hf, hs.2.i4Period (by simp [hf])]
  case stopped =>
    have hperiod : (stopLow s.regs).stPeriod = nominalPeriod := hs.2.i4Period (by simp [hf])
    obtain ⟨v, hv, hregs, -⟩ :=
      playMoves_hold (s := s.setRegs (stopLow s.regs)) hs.1 fun m hm => ⟨hms m hm, .inr rfl⟩
    refine ⟨_, v, _, exec_next_of_ok rfl hs.1 rfl, hv, exec_decodeRead a v, congrArg Regs.fsm hregs, rfl, ?_⟩
    change memRead a v.regs = _
    rw [hregs, State.setRegs_regs, (hs.2.unpublished (.inr hf)).stopLow.memRead_eq, hperiod]

/-- Settles O53: a publish would have raised `ST_CYCLE`. -/
theorem equalCyclesBracketNoPublish : Obligations.EqualCyclesBracketNoPublish := by
  intro ms s hs hinit harm hle hwrap hms
  obtain ⟨t, ht, -⟩ := hs.playMoves_next ms
  refine ⟨t, ht, fun heq => ?_⟩
  rcases playMoves_keeps_or_raises hs (hs.2.started hinit harm) hle hwrap hms ht with hsame | hraised
  · obtain ⟨hindex, hvalue, hduty, -⟩ := hsame
    exact ⟨hindex, hvalue, hduty⟩
  · rw [heq] at hraised
    exact absurd hraised (BitVec.lt_irrefl _)

/-- Settles O54: INIT's writes stand until the tick, which begins sample 0 or stops. -/
theorem bootReachesFirstSample : Obligations.BootReachesFirstSample := by
  intro s tk st stop idles hr hs hidles hticks
  obtain ⟨u, hu, hregs, hr'⟩ := playMoves_boot hr hs tk st hidles hticks
  refine ⟨⟨u, hu, ?armed⟩, ?ticked⟩
  case armed =>
    unfold pwmOut pwmOe
    rw [hregs]
    exact ⟨rfl, rfl, rfl, rfl, rfl, rfl, rfl, rfl⟩
  case ticked =>
    obtain ⟨t, ht, htregs⟩ := step_arm_tick hr' (hregs ▸ rfl) stop []
    rw [hregs] at htregs
    refine ⟨{ t with moves := [] }, by rw [← List.cons_append, playMoves_append hu, playMoves_cons, ht]; rfl, ?_⟩
    unfold pwmOut
    rw [htregs]
    cases stop with
    | true => exact ⟨rfl, rfl, nofun, fun _ => ⟨rfl, rfl, rfl⟩⟩
    | false =>
      obtain ⟨-, hphase, hindex, hcyc⟩ := inSample_armStart (initRegs_inv s.ports reset_inv rfl) rfl
      rw [if_neg Bool.false_ne_true]
      refine ⟨hphase, hcyc, fun _ => ⟨rfl, rfl, hindex, ?_⟩, nofun⟩
      exact (startSample_stValue ..).trans (congrArg romRead hindex)

/-- Settles O10: RESET's registers are those of R41, whose code is that of INIT. -/
theorem resetWritesEveryRegister : Obligations.ResetWritesEveryRegister := by
  refine ⟨row_of_instr (.reset false false 0#3 false false) rfl fun i => ?row, fun t st f e p s => rfl,
    fun t st f e p s u hu q hrst => ?next⟩
  case row => cases i <;> simp [Instr.row, IsReset]
  case next =>
    cases hu
    rw [decodeWordOf, State.setPorts_ports, hrst]
    exact ⟨_, _, _, _, decodeEdge_init ..⟩

/-- Settles O11: INIT's writes, and the line's level and enable by I3 and I4. -/
theorem initEnablesAndLatches : Obligations.InitEnablesAndLatches := by
  refine ⟨row_of_instr (.init false false false false) rfl fun i => ?row,
    fun t st e p s hr => exec_next_of_ok rfl hr rfl, fun _ _ _ => isReset_of_exec_init, fun t st e p s hs hf => ?low,
    fun s hs hf => ⟨hs.2.outQ_false (by simp [hf]), hs.2.i4.mpr (by simp [hf])⟩⟩
  case row => cases i <;> simp [Instr.row]
  case low => exact ⟨_, exec_next_of_ok rfl hs.1 rfl, hs.2.outQ_false (by simp [hf]), rfl⟩

end Sys2Proof.Claims

/-! PROOFS, the placed word: the registers and inputs chosen for a decode word form that decode word
(30_encoding.md R71; log entry 12). -/

namespace Sys2Proof.Machine

/-! ## The fitted registers -/

/-- The fitted `rem` is 1 where the bit `rem_is_one` asks for it and nowhere else. -/
theorem fitRem_eq_one_iff (f : FsmCode) (e : Bool) (v : BitVec 2) : fitRem f e v = 1#2 ↔ e = true := by
  unfold fitRem
  split
  next he => exact iff_of_true rfl he
  next he =>
    refine iff_of_false ?_ he
    split
    next => decide
    next =>
      split
      next => decide
      next hv => exact hv

/-- The fitted `p` is 2 where the bit `p_is_two` asks for it and nowhere else. -/
theorem fitP_eq_two_iff (f : FsmCode) (b : Bool) (v : BitVec 2) : fitP f b v = 2#2 ↔ b = true := by
  unfold fitP
  split
  next hb => exact iff_of_true rfl hb
  next hb =>
    refine iff_of_false ?_ hb
    split
    next => decide
    next hv => exact fun hv2 => hv (.inl hv2)

theorem remIsOne_placeRegs (w : DecodeWord) (r : Regs) : remIsOne (placeRegs w r) = dwRemIsOne w :=
  Bool.eq_iff_iff.mpr (remIsOne_iff.trans (fitRem_eq_one_iff ..))

theorem pIsTwo_placeRegs (w : DecodeWord) (r : Regs) : pIsTwo (placeRegs w r) = dwPIsTwo w :=
  Bool.eq_iff_iff.mpr (pIsTwo_iff.trans (fitP_eq_two_iff ..))

/-! ## The step from a placed word -/

/-- The state in which a placed operation word is performed: its move taken and driven, in the fitted registers where the
move is an edge. -/
def State.placed (s : State) : OpWord → State
  | .edge w => { s with regs := placeRegs w s.regs }.driven (.edge (dwRst w) (dwTick w) (dwStop w)) s.moves
  | .read a => s.driven (.read a) s.moves

theorem step_placeOp (op : OpWord) (s : State) : step (placeOp op s) = exec (decode op) (s.placed op) := by
  cases op with
  | edge w =>
    have hword : packDecodeWord (dwRst w) (dwTick w) (dwStop w) (placeRegs w s.regs).fsm
        (remIsOne (placeRegs w s.regs)) (pIsTwo (placeRegs w s.regs)) = w := by
      rw [remIsOne_placeRegs, pIsTwo_placeRegs]
      exact pack_fields w
    have hstep := step_edge { s with regs := placeRegs w s.regs } s.moves (dwRst w) (dwTick w) (dwStop w)
    rw [hword] at hstep
    exact hstep
  | read a => rfl

/-- A table word decodes to an instruction where its bits sort into an operation word of that instruction. -/
theorem decodeTableWord_eq_some_iff {nbits w : Nat} {i : Instr} :
    decodeTableWord nbits w = some i ↔ ∃ op, RawWord.sort ⟨nbits, w⟩ = .ok op ∧ decode op = i := by
  unfold decodeTableWord decodeRaw
  cases RawWord.sort ⟨nbits, w⟩ <;> simp

theorem withFetchWord_of_sort {nbits w : Nat} {op : OpWord} (h : RawWord.sort ⟨nbits, w⟩ = .ok op) (s : State) :
    s.withFetchWord nbits w = placeOp op s := by
  rw [State.withFetchWord, placeRaw, h]

end Sys2Proof.Machine

namespace Sys2Proof.Claims

open Machine

/-- Settles O9: the fitted registers and the driven inputs form the placed word (`step_placeOp`). -/
theorem placedWordIsRun : Obligations.PlacedWordIsRun := by
  intro s nbits w i h
  obtain ⟨op, hsort, rfl⟩ := decodeTableWord_eq_some_iff.mp h
  refine ⟨s.placed op, ?runs, ?frame⟩
  case runs => rw [withFetchWord_of_sort hsort, step_placeOp]
  case frame => cases op <;> exact ⟨rfl, rfl, rfl, rfl, rfl⟩

end Sys2Proof.Claims
